-- ==== Sys2Proof/Word.lean ====
section
/-! DEFINITION. The byte, the one word the block moves and compares (spec/00_scope.md R5, `W` = 8). -/

namespace Sys2Proof

/-- R5: a byte has `W` = 8 bits, bit 7 most significant (R32). -/
abbrev Byte := BitVec 8

/-- `zeros(n)` of spec/00_scope.md section 6: `n` bytes of 0x00. -/
def zeros (n : Nat) : List Byte := List.replicate n 0#8

end Sys2Proof
end

