-- ==== Sys2Proof/Config.lean ====
section
/-! DEFINITION. The configuration constants of the block (spec/00_scope.md R5, R6) and the one open choice
`SAME_CYCLE_ORDER` (spec/20_memory.md R41). -/

namespace Sys2Proof

/-- R5: the constants fixed when the block is built. `W` is the width of `Byte`. -/
structure Config where
  /-- `START_BYTE` -/
  startByte : Byte
  /-- `END_BYTE` -/
  endByte : Byte
  /-- `P`: payload capacity, the capacity of the partial buffer; counts the code byte. -/
  P : Nat
  /-- `A`: argument bytes of a Message. -/
  A : Nat
  /-- `N`: Messages the queue holds. -/
  N : Nat
  deriving DecidableEq, Repr

/-- R5, default column: 0x02, 0x03, 200, 199 (spec/90_conflicts.md C1), 15. -/
def Config.documented : Config :=
  { startByte := 0x02#8, endByte := 0x03#8, P := 200, A := 199, N := 15 }

/-- R5, constraint column. -/
abbrev Config.Legal (c : Config) : Prop :=
  c.startByte ≠ c.endByte ∧ 1 ≤ c.P ∧ 1 ≤ c.N ∧ c.P - 1 ≤ c.A

/-- `ceil(log2(n))` for `n ≥ 1`, as R6 uses it. -/
def clog2 (n : Nat) : Nat := if n ≤ 1 then 0 else Nat.log2 (n - 1) + 1

/-- R6: bits of `partial_length`. -/
def Config.lengthWidth (c : Config) : Nat := clog2 (c.P + 1)

/-- R6: bits of `count`, `LEN` and `CAPACITY`. -/
def Config.countWidth (c : Config) : Nat := clog2 (c.N + 1)

/-- R6: bits of `rd_ptr` and `wr_ptr`. -/
def Config.ptrWidth (c : Config) : Nat := clog2 c.N

/-- R6: bits of a Message. -/
def Config.messageWidth (c : Config) : Nat := 8 * (1 + c.A)

/-- R41: the open order of an `RX` and a consumer command of one clock cycle; every function that depends on it
takes it as an argument, so a claim holds for both. -/
inductive SameCycleOrder where
  | rxFirst
  | cmdFirst
  deriving DecidableEq, Repr

end Sys2Proof
end

