-- ==== Sys2Proof/Syntax.lean ====
section
/-! DEFINITION. The operations of the block, one constructor per mnemonic of spec/opcode_table.json (its seven
DATA rows are one operation, R51), the Message they carry, and the words that arrive at the agents' ports. -/

namespace Sys2Proof

/-- R13: a command code and `A` argument bytes, no length field. -/
structure Message where
  code : Byte
  args : List Byte
  deriving DecidableEq, Repr

/-- The bytes of a Message, byte 0 the code (R56). -/
def Message.bytes (m : Message) : List Byte := m.code :: m.args

/-- The atomic operations (R7 and the line after it). -/
inductive Instr where
  /-- `RX` of the START byte (R71, R73). -/
  | startFrame
  /-- `RX` of the END byte (R74, R75, R80, R78, R72). -/
  | endFrame
  /-- `RX` of any other byte (R76, R77, R72); the seven DATA rows of the table. -/
  | data (b : Byte)
  /-- `cmd = 0b00` (R95). -/
  | nop
  /-- `cmd = 0b01` (R92). -/
  | pop
  /-- `cmd = 0b10` (R94). -/
  | clear
  /-- `cmd = 0b11`, reserved (R60). -/
  | reservedCmd3
  /-- `try_push(m)`, internal to the END step (R91); no encoding. -/
  | qpush (m : Message)
  /-- `len()` (R93); no encoding. -/
  | len
  /-- `capacity()` (R93); no encoding. -/
  | capacity
  /-- the `rst` input at 1 (R160). -/
  | reset
  deriving DecidableEq, Repr

/-- R7: who acts on the block. -/
inductive Agent where
  | producer
  | consumer
  | orchestrator
  deriving DecidableEq, Repr

/-- What the consumer can put to the block: a command word (R59) or one of the two status reads (R93), which
have no command encoding. -/
inductive ConsumerRequest where
  | command (w : BitVec 2)
  | readLen
  | readCapacity
  deriving DecidableEq, Repr

/-- One word at one agent's port: a received byte (R51), a consumer request, or a level of `rst` (R67). -/
inductive PortWord where
  | rx (b : Byte)
  | request (r : ConsumerRequest)
  | rst (level : BitVec 1)
  deriving DecidableEq, Repr

/-- R148: the agent whose port a word arrives at. -/
def PortWord.agent : PortWord → Agent
  | .rx _ => .producer
  | .request _ => .consumer
  | .rst _ => .orchestrator

/-- R7 and the table's "agent" column: the agent that performs an operation. -/
def Instr.agent : Instr → Agent
  | .startFrame => .producer
  | .endFrame => .producer
  | .data _ => .producer
  | .nop => .consumer
  | .pop => .consumer
  | .clear => .consumer
  | .reservedCmd3 => .consumer
  | .qpush _ => .producer
  | .len => .consumer
  | .capacity => .consumer
  | .reset => .orchestrator

end Sys2Proof
end

