-- ==== Sys2Proof/WellFormed.lean ====
section
/-! DEFINITION. Which terms of `Instr` stand for an operation of a block with configuration `c`. -/

namespace Sys2Proof

/-- R13: a Message of the block has exactly `A` argument bytes. -/
abbrev Message.wf (c : Config) (m : Message) : Prop := m.args.length = c.A

/-- R51: a DATA byte is neither sentinel; R91: `QPUSH` takes one Message of `1+A` bytes. -/
def Instr.wf (c : Config) : Instr → Bool
  | .startFrame => true
  | .endFrame => true
  | .data b => decide (b ≠ c.startByte) && decide (b ≠ c.endByte)
  | .nop => true
  | .pop => true
  | .clear => true
  | .reservedCmd3 => true
  | .qpush m => decide (m.wf c)
  | .len => true
  | .capacity => true
  | .reset => true

end Sys2Proof
end

