-- ==== Sys2Proof/Decode.lean ====
section
/-! DEFINITION. Decoding a word at a port into an operation, and the encoder back (spec/30_encoding.md). -/

namespace Sys2Proof

/-- One row of spec/opcode_table.json for a word of `w` bits: the row matches the words whose bits under `mask`
are those of `pattern` ("match" in the table). -/
structure OpcodeRow (w : Nat) where
  mnemonic : String
  pattern : BitVec w
  mask : BitVec w
  deriving DecidableEq, Repr

def OpcodeRow.matches {w : Nat} (r : OpcodeRow w) (x : BitVec w) : Bool := x &&& r.mask == r.pattern

/-- R51: the nine rows of format B, for the documented sentinels. -/
def receiveRows : List (OpcodeRow 8) :=
  [ ⟨"START", 0x02#8, 0xFF#8⟩,
    ⟨"END", 0x03#8, 0xFF#8⟩,
    ⟨"DATA", 0x80#8, 0x80#8⟩,
    ⟨"DATA", 0x40#8, 0xC0#8⟩,
    ⟨"DATA", 0x20#8, 0xE0#8⟩,
    ⟨"DATA", 0x10#8, 0xF0#8⟩,
    ⟨"DATA", 0x08#8, 0xF8#8⟩,
    ⟨"DATA", 0x04#8, 0xFC#8⟩,
    ⟨"DATA", 0x00#8, 0xFE#8⟩ ]

/-- R59, R60: the four rows of format C. -/
def commandRows : List (OpcodeRow 2) :=
  [ ⟨"NOP", 0b00#2, 0b11#2⟩,
    ⟨"POP", 0b01#2, 0b11#2⟩,
    ⟨"CLEAR", 0b10#2, 0b11#2⟩,
    ⟨"RESERVED_CMD3", 0b11#2, 0b11#2⟩ ]

/-- R51: the three classes of a received byte. -/
inductive ByteClass where
  | start
  | finish
  | data
  deriving DecidableEq, Repr

/-- R51: compare all 8 bits with the sentinels, START first (R52). -/
def byteClass (c : Config) (b : Byte) : ByteClass :=
  if b = c.startByte then .start else if b = c.endByte then .finish else .data

/-- The row's mnemonic for a class. -/
def ByteClass.mnemonic : ByteClass → String
  | .start => "START"
  | .finish => "END"
  | .data => "DATA"

/-- R51, R66: every byte is an operation. -/
def decodeByte (c : Config) (b : Byte) : Instr :=
  match byteClass c b with
  | .start => .startFrame
  | .finish => .endFrame
  | .data => .data b

/-- R59, R60. -/
def decodeCommand (w : BitVec 2) : Instr :=
  if w = 0b00#2 then .nop
  else if w = 0b01#2 then .pop
  else if w = 0b10#2 then .clear
  else .reservedCmd3

def decodeRequest : ConsumerRequest → Instr
  | .command w => decodeCommand w
  | .readLen => .len
  | .readCapacity => .capacity

/-- The words that are no operation. -/
inductive DecodeError where
  /-- `rst` at 0 asks for nothing (R67); safe: the step performs no operation. -/
  | rstInactive
  deriving DecidableEq, Repr

/-- The decoder: total, and the only word it rejects is `rst` at 0. -/
def decode (c : Config) : PortWord → Except DecodeError Instr
  | .rx b => .ok (decodeByte c b)
  | .request r => .ok (decodeRequest r)
  | .rst level => if level = 1#1 then .ok .reset else .error .rstInactive

/-- The word that stands for an operation at its agent's port; `QPUSH` has none (R91, R103). -/
def encode (c : Config) : Instr → Option PortWord
  | .startFrame => some (.rx c.startByte)
  | .endFrame => some (.rx c.endByte)
  | .data b => some (.rx b)
  | .nop => some (.request (.command 0b00#2))
  | .pop => some (.request (.command 0b01#2))
  | .clear => some (.request (.command 0b10#2))
  | .reservedCmd3 => some (.request (.command 0b11#2))
  | .qpush _ => none
  | .len => some (.request .readLen)
  | .capacity => some (.request .readCapacity)
  | .reset => some (.rst 1#1)

/-- DESIGN CHOICE (log 8): the table's rows are words of three ports, told apart by their width: 8 bits arrive at
`rx_byte`, 2 bits at `cmd`, 1 bit at `rst`. No other width is a word of a port. -/
def portWordOfTable (nbits w : Nat) : Option PortWord :=
  if nbits = 8 then some (.rx (BitVec.ofNat 8 w))
  else if nbits = 2 then some (.request (.command (BitVec.ofNat 2 w)))
  else if nbits = 1 then some (.rst (BitVec.ofNat 1 w))
  else none

/-- The operation the decoder reads from a word of spec/opcode_table.json, with the documented sentinels. -/
def decodeTableWord (nbits w : Nat) : Option Instr :=
  match portWordOfTable nbits w with
  | none => none
  | some p =>
    match decode Config.documented p with
    | .ok i => some i
    | .error _ => none

end Sys2Proof
end

