-- ==== Sys2Proof/Machine/State.lean ====
section
/-! DEFINITION. The state of the block, the reports of its operations, and the reasons a step can stop. -/

namespace Sys2Proof.Machine

/-- R61: the event of one operation. Code 7 is unused and has no constructor. -/
inductive Event where
  | evNone
  | evStart
  | evAppend
  | evAccept
  | evDesync
  | evQFull
  | evOverflow
  deriving DecidableEq, Repr

/-- What one operation reports to the agent that issued it. DESIGN CHOICE (log 3): the report of the last step
stands in `State.report`; no operation reads it. -/
inductive Report where
  /-- no result and `EV_NONE`: `NOP`, `CLEAR`, `RESET`, or no operation -/
  | nothing
  /-- `push_byte`: the event and the `Option<Message>` result (R84, R140) -/
  | received (e : Event) (m : Option Message)
  /-- `try_pop() -> Option<Message>` (R92) -/
  | popped (m : Option Message)
  /-- `try_push(Message) -> bool` (R91) -/
  | pushed (ok : Bool)
  /-- `len()` (R93) -/
  | length (n : Nat)
  /-- `capacity()` (R93) -/
  | capacity (n : Nat)
  deriving DecidableEq, Repr

/-- The block (the first six fields), what it last reported, and what its agents still have to put to it.
R15: `queue` is the architectural sequence `Q`. `partial_length`, `wr_ptr`, `count` and `SLOT` are views of these
fields (Machine/Flags.lean). -/
structure State where
  /-- R5: the constants of the block; no operation writes them (log 2). -/
  cfg : Config
  /-- R10: `in_progress`, true = in frame. -/
  inProgress : Bool
  /-- R10, R12: `PB[0..partial_length]`, oldest byte first. -/
  partialBuffer : List Byte
  /-- R15: `Q`, oldest Message first. -/
  queue : List Message
  /-- R17: `rd_ptr` of the reference implementation; hidden (R23). -/
  rdPtr : Nat
  /-- R21, R140: the output of the last step; not read by any operation (log 3). -/
  report : Report
  /-- R37: bytes the producer has yet to deliver, oldest first (log 1). -/
  rxIn : List Byte
  /-- R59, R93: what the consumer has yet to ask, oldest first (log 1). -/
  cmdIn : List ConsumerRequest
  /-- R67: levels of `rst` the orchestrator has yet to drive, oldest first (log 1). -/
  rstIn : List (BitVec 1)
  /-- R36: which agent acts at each coming step; any list is a legal interleaving (log 1). -/
  turns : List Agent
  deriving DecidableEq, Repr

/-- R154, R146: no operation of the block is fatal, so no step faults: there is no fault to name (safe: the spec
gives every operation that is not reserved its effect). -/
inductive Fault where
  deriving DecidableEq, Repr

/-- The runs the spec has the model refuse. -/
inductive Refusal where
  /-- Raised by an arm of `exec` that has no meaning yet; safe. No arm raises it. -/
  | notModelled (mnemonic : String)
  /-- Raised by `cmd = 0b11` (R60, U3): "a model refuses a run in which it occurs"; safe. -/
  | reservedCommand
  /-- Raised by `step` on a configuration that breaks a constraint of R5 (U7: `refuse`); safe. -/
  | illegalConfiguration
  deriving DecidableEq, Repr

/-- R25, R160: the block after `RESET`, with the documented constants; its agents have nothing to do (log 6, log 7). -/
def State.reset : State :=
  { cfg := Config.documented
    inProgress := false
    partialBuffer := []
    queue := []
    rdPtr := 0
    report := .nothing
    rxIn := []
    cmdIn := []
    rstIn := []
    turns := [] }

end Sys2Proof.Machine
end

