-- ==== Sys2Proof/Machine/Operands.lean ====
section
/-! DEFINITION. The operand forms: the reads of the two stores (R22, R30), Message assembly (R55) and the layout
of a Message as one wide value (R56). -/

namespace Sys2Proof.Machine

/-- R10: `partial_length`. -/
def State.partialLength (s : State) : Nat := s.partialBuffer.length

/-- R12, R22: `PB[i]`; nothing at and beyond `partial_length`. -/
def State.pb (s : State) (i : Nat) : Option Byte := s.partialBuffer[i]?

/-- R55: `MkMessage(buf, |buf|)`. -/
def mkMessage (c : Config) (buf : List Byte) : Message :=
  { code := buf[0]?.getD 0#8
    args := (List.range c.A).map fun i => buf[i + 1]?.getD 0#8 }

/-- A sequence of bytes as one number, byte `k` at bits `8k+7` down to `8k`. -/
def bytesValue : List Byte → Nat
  | [] => 0
  | b :: bs => b.toNat + 256 * bytesValue bs

/-- R56: a Message as the vector of `8*(1+A)` bits, the code lowest. -/
def messageVector (m : Message) : Nat := bytesValue m.bytes

/-- R17: `count`. -/
def State.count (s : State) : Nat := s.queue.length

/-- R17, INV4: `wr_ptr = (rd_ptr + count) mod N`. -/
def State.wrPtr (s : State) : Nat := (s.rdPtr + s.queue.length) % s.cfg.N

/-- R17: the Message in `SLOT[k]` by the abstraction function read backwards, nothing in a free slot or at an
index that is no slot. -/
def State.slot (s : State) (k : Nat) : Option Message :=
  if k < s.cfg.N then s.queue[(k + s.cfg.N - s.rdPtr) % s.cfg.N]? else none

end Sys2Proof.Machine
end

