-- ==== Sys2Proof/Machine/Flags.lean ====
section
/-! DEFINITION. The flag-like values and status outputs (R19, R20), the event codes (R61) and the signals a report
drives on the reference ports (R67, R144). -/

namespace Sys2Proof.Machine

/-- R93: `LEN() = |Q|`. -/
def State.len (s : State) : Nat := s.queue.length

/-- R93: `CAPACITY() = N`. -/
def State.capacity (s : State) : Nat := s.cfg.N

/-- R93: `EMPTY = (|Q| == 0)`. -/
def State.empty (s : State) : Bool := decide (s.queue.length = 0)

/-- R93: `FULL = (|Q| == N)`. -/
def State.full (s : State) : Bool := decide (s.queue.length = s.cfg.N)

/-- R61: `ev_code[2:0]`. -/
def Event.code : Event → BitVec 3
  | .evNone => 0#3
  | .evStart => 1#3
  | .evAppend => 2#3
  | .evAccept => 3#3
  | .evDesync => 4#3
  | .evQFull => 5#3
  | .evOverflow => 6#3

/-- R61, R141: the three diagnostics. -/
def Event.diagnostic : Event → Bool
  | .evNone => false
  | .evStart => false
  | .evAppend => false
  | .evAccept => false
  | .evDesync => true
  | .evQFull => true
  | .evOverflow => true

/-- R61: a step with no `RX` operation reports `EV_NONE`. -/
def Report.event : Report → Event
  | .received e _ => e
  | .nothing => .evNone
  | .popped _ => .evNone
  | .pushed _ => .evNone
  | .length _ => .evNone
  | .capacity _ => .evNone

/-- R84: the Message `push_byte` returned, if any. -/
def Report.accepted : Report → Option Message
  | .received _ m => m
  | .nothing => none
  | .popped _ => none
  | .pushed _ => none
  | .length _ => none
  | .capacity _ => none

/-- R92: the Message `try_pop` returned, if any. -/
def Report.poppedMessage : Report → Option Message
  | .popped m => m
  | .nothing => none
  | .received _ _ => none
  | .pushed _ => none
  | .length _ => none
  | .capacity _ => none

/-- R67, R144: `msg_avail`, 1 exactly when `ev_code = EV_ACCEPT`. -/
def Report.msgAvail (r : Report) : Bool := decide (r.event = .evAccept)

/-- R67: `pop_valid`, 1 = `Some`, 0 = `None` or no `POP`. -/
def Report.popValid (r : Report) : Bool := r.poppedMessage.isSome

end Sys2Proof.Machine
end

