-- ==== Sys2Proof/Machine/Ops.lean ====
section
/-! DEFINITION. The named operations over the stores: the decoder's writes (R71 to R77, R88), the queue's
`QPUSH`, `POP`, `CLEAR` (R91, R92, R94 with the pointers of R96), `RESET` (R160), and reporting an event.
The block takes no exception: a condition is an event and nothing else (R140, R146), so `State.emit` is all there
is to entering one, and there is no return (R147). -/

namespace Sys2Proof.Machine

/-- The output of a step; it replaces the output of the step before (R21: not latched). -/
def State.emit (s : State) (r : Report) : State := { s with report := r }

/-- A step in which no operation runs (R153). -/
def State.idle (s : State) : State := s.emit .nothing

/-- R71: `in_progress <- true ; partial_length <- 0`. -/
def State.openFrame (s : State) : State := { s with inProgress := true, partialBuffer := [] }

/-- R74, R75: `in_progress <- false ; partial_length <- 0`. -/
def State.closeFrame (s : State) : State := { s with inProgress := false, partialBuffer := [] }

/-- R76: `PB[partial_length] <- b ; partial_length <- partial_length + 1`. -/
def State.appendByte (s : State) (b : Byte) : State := { s with partialBuffer := s.partialBuffer ++ [b] }

/-- R96, R97: the successor of a pointer, modulo the number of slots. -/
def nextPtr (c : Config) (p : Nat) : Nat := (p + 1) % c.N

/-- R91: `QPUSH(m)`, the test and the append in one. `wr_ptr` and `count` follow from `queue`. -/
def State.qpush (s : State) (m : Message) : Bool × State :=
  if s.queue.length = s.cfg.N then (false, s)
  else (true, { s with queue := s.queue ++ [m] })

/-- R92, R96: `POP()`. -/
def State.qpop (s : State) : Option Message × State :=
  match s.queue with
  | [] => (none, s)
  | m :: rest => (some m, { s with queue := rest, rdPtr := nextPtr s.cfg s.rdPtr })

/-- R94, R96: `CLEAR()`; with `Q` empty and `rd_ptr` 0, `wr_ptr` and `count` are 0. -/
def State.qclear (s : State) : State := { s with queue := [], rdPtr := 0 }

/-- R160: `RESET()` of the block; the constants and what the agents have yet to do are not the block's to write. -/
def State.resetBlock (s : State) : State :=
  { s with inProgress := false, partialBuffer := [], queue := [], rdPtr := 0 }

/-- What follows an operation that answers a next state. -/
def andThen {σ τ : Type} (o : Host.Outcome σ Fault Refusal) (f : σ → Host.Outcome τ Fault Refusal) :
    Host.Outcome τ Fault Refusal :=
  match o with
  | .next s => f s
  | .fault r => .fault r
  | .refused r => .refused r

end Sys2Proof.Machine
end

