-- ==== Sys2Proof/Machine/FrameDecoder.lean ====
section
/-! DEFINITION. The Frame Decoder: `RX b` and its cases (spec/40_frame_decoder.md). -/

namespace Sys2Proof.Machine

/-- R71, R73. -/
def rxStart (s : State) : State := s.openFrame.emit (.received .evStart none)

/-- R72: no state element is written. -/
def rxDesync (s : State) : State := s.emit (.received .evDesync none)

/-- R74, R75 (with R80 and R78 as cases of the same rule): the Message is built from `PB` before the decode state
is reset, and the test for a free slot is the one inside `QPUSH` (R43). -/
def rxEnd (s : State) : State :=
  let m := mkMessage s.cfg s.partialBuffer
  match s.qpush m with
  | (true, t) => t.closeFrame.emit (.received .evAccept (some m))
  | (false, t) => t.closeFrame.emit (.received .evQFull none)

/-- R77 when `partial_length = P`, else R76. R79: the test is equality with `P`. -/
def rxData (s : State) (b : Byte) : State :=
  if s.partialLength = s.cfg.P then s.emit (.received .evOverflow none)
  else (s.appendByte b).emit (.received .evAppend none)

/-- R70: `RX(b)`, its tests in their normative order. -/
def rx (b : Byte) (s : State) : State :=
  if b = s.cfg.startByte then rxStart s
  else if s.inProgress = false then rxDesync s
  else if b = s.cfg.endByte then rxEnd s
  else rxData s b

/-- START (R71, R73): `RX START_BYTE`. -/
def execStartFrame (s : State) : Host.Outcome State Fault Refusal := .next (rx s.cfg.startByte s)

/-- END (R74, R75, R80, R78, R72): `RX END_BYTE`. -/
def execEndFrame (s : State) : Host.Outcome State Fault Refusal := .next (rx s.cfg.endByte s)

/-- DATA (R76, R77, R72): `RX b`. On a byte that is a sentinel (not well formed, never decoded) it does what R70
does with that byte (log 12). -/
def execData (b : Byte) (s : State) : Host.Outcome State Fault Refusal := .next (rx b s)

end Sys2Proof.Machine
end

