-- ==== Sys2Proof/Machine/MessageQueue.lean ====
section
/-! DEFINITION. The Message Queue's operations (spec/41_message_queue.md). -/

namespace Sys2Proof.Machine

/-- NOP (R95): writes nothing, no result. -/
def execNop (s : State) : Host.Outcome State Fault Refusal := .next s.idle

/-- POP (R92). -/
def execPop (s : State) : Host.Outcome State Fault Refusal :=
  match s.qpop with
  | (m, t) => .next (t.emit (.popped m))

/-- CLEAR (R94): the queue only. -/
def execClear (s : State) : Host.Outcome State Fault Refusal := .next (s.qclear.emit .nothing)

/-- RESERVED_CMD3 (R60, R101): "a model refuses a run in which it occurs". -/
def execReservedCmd3 (_s : State) : Host.Outcome State Fault Refusal := .refused .reservedCommand

/-- QPUSH (R91), as an operation by itself; the END step performs the same `State.qpush`. -/
def execQpush (m : Message) (s : State) : Host.Outcome State Fault Refusal :=
  match s.qpush m with
  | (ok, t) => .next (t.emit (.pushed ok))

end Sys2Proof.Machine
end

