-- ==== Sys2Proof/Machine/Status.lean ====
section
/-! DEFINITION. The status reads (R93, R20). -/

namespace Sys2Proof.Machine

/-- LEN (R93). -/
def execLen (s : State) : Host.Outcome State Fault Refusal := .next (s.emit (.length s.len))

/-- CAPACITY (R93). -/
def execCapacity (s : State) : Host.Outcome State Fault Refusal := .next (s.emit (.capacity s.capacity))

end Sys2Proof.Machine
end

