-- ==== Sys2Proof/Machine/System.lean ====
section
/-! DEFINITION. `RESET` (spec/70_reset_and_hazards.md R160). -/

namespace Sys2Proof.Machine

/-- RESET (R160): every state element of the block; no event. -/
def execReset (s : State) : Host.Outcome State Fault Refusal := .next (s.resetBlock.emit .nothing)

end Sys2Proof.Machine
end

