-- ==== Sys2Proof/Machine/Dispatch.lean ====
section
/-! DEFINITION. One arm per operation, each calling its meaning. -/

namespace Sys2Proof.Machine

def exec (i : Instr) (s : State) : Host.Outcome State Fault Refusal :=
  match i with
  | .startFrame => Sys2Proof.Machine.execStartFrame s
  | .endFrame => Sys2Proof.Machine.execEndFrame s
  | .data b => Sys2Proof.Machine.execData b s
  | .nop => Sys2Proof.Machine.execNop s
  | .pop => Sys2Proof.Machine.execPop s
  | .clear => Sys2Proof.Machine.execClear s
  | .reservedCmd3 => Sys2Proof.Machine.execReservedCmd3 s
  | .qpush m => Sys2Proof.Machine.execQpush m s
  | .len => Sys2Proof.Machine.execLen s
  | .capacity => Sys2Proof.Machine.execCapacity s
  | .reset => Sys2Proof.Machine.execReset s

end Sys2Proof.Machine
end

