-- ==== Sys2Proof/Machine/Fetch.lean ====
section
/-! DEFINITION. What stands where a processor fetches (R18, R36, R44): the next agent to act, the word it puts to
its port, and running that word. -/

namespace Sys2Proof.Machine

/-- The oldest word an agent has yet to put to its port (R36, R37), if any. -/
def takeFrom (a : Agent) (s : State) : Option PortWord × State :=
  match a with
  | .producer =>
    match s.rxIn with
    | [] => (none, s)
    | b :: rest => (some (.rx b), { s with rxIn := rest })
  | .consumer =>
    match s.cmdIn with
    | [] => (none, s)
    | r :: rest => (some (.request r), { s with cmdIn := rest })
  | .orchestrator =>
    match s.rstIn with
    | [] => (none, s)
    | level :: rest => (some (.rst level), { s with rstIn := rest })

/-- R36: the next turn of the total order. No turn left, or an agent with nothing to do: no operation (log 9). -/
def takeTurn (s : State) : Option PortWord × State :=
  match s.turns with
  | [] => (none, s)
  | a :: rest => takeFrom a { s with turns := rest }

/-- One word put to the block: its operation, or none when `rst` is 0. -/
def execWord (w : PortWord) (s : State) : Host.Outcome State Fault Refusal :=
  match decode s.cfg w with
  | .ok i => exec i s
  | .error _ => .next s.idle

/-- One turn of the total order. -/
def execTurn (t : Option PortWord) (s : State) : Host.Outcome State Fault Refusal :=
  match t with
  | none => .next s.idle
  | some w => execWord w s

/-- A word put before everything its agent has yet to do, with the turn that delivers it first. -/
def State.pushWord (s : State) (w : PortWord) : State :=
  match w with
  | .rx b => { s with rxIn := b :: s.rxIn, turns := .producer :: s.turns }
  | .request r => { s with cmdIn := r :: s.cmdIn, turns := .consumer :: s.turns }
  | .rst level => { s with rstIn := level :: s.rstIn, turns := .orchestrator :: s.turns }

/-- R64: a list of stimulus lines, run top to bottom before anything already pending. -/
def State.withStimulus (s : State) : List PortWord → State
  | [] => s
  | w :: ws => (s.withStimulus ws).pushWord w

end Sys2Proof.Machine
end

