-- ==== Sys2Proof/Machine/Step.lean ====
section
/-! DEFINITION. One step of the machine: one turn of the total order of R36. -/

namespace Sys2Proof.Machine

/-- R36: the agent whose turn it is puts its oldest word to the block, and the operation runs to completion.
U7: a configuration that breaks a constraint of R5 is refused. -/
def step (s : State) : Host.Outcome State Fault Refusal :=
  if s.cfg.Legal then
    match takeTurn s with
    | (t, u) => execTurn t u
  else .refused .illegalConfiguration

/-- The state in which the very next step runs the given word of spec/opcode_table.json (log 7, log 8). A width
that is no port's changes nothing. -/
def State.withFetchWord (s : State) (nbits w : Nat) : State :=
  match portWordOfTable nbits w with
  | some p => s.pushWord p
  | none => s

end Sys2Proof.Machine
end

