-- ==== Sys2Proof/Machine/Ports.lean ====
section
/-! DEFINITION. The reference ports (spec/30_encoding.md R67): one clock cycle as operations of the block, in either
order of R41, with `RESET` overriding (R162). -/

namespace Sys2Proof.Machine

/-- R67, the inputs sampled at a clock edge. -/
structure PortsIn where
  rst : Bool
  rxValid : Bool
  rxByte : Byte
  cmd : BitVec 2
  deriving DecidableEq, Repr

/-- R67, the outputs of the cycle. A value the consumer must not read (U2: `ev_msg` with `msg_avail = 0`, `pop_msg`
with `pop_valid = 0`) does not exist: `none`. -/
structure PortsOut where
  rxReady : Bool
  evCode : BitVec 3
  msgAvail : Bool
  evMsg : Option Nat
  popValid : Bool
  popMsg : Option Nat
  len : Nat
  capacity : Nat
  empty : Bool
  full : Bool
  deriving DecidableEq, Repr

/-- R67: the outputs, from the state before the cycle and the reports of its two operations. -/
def portsOut (s : State) (rxReport cmdReport : Report) : PortsOut :=
  { rxReady := true
    evCode := rxReport.event.code
    msgAvail := rxReport.msgAvail
    evMsg := rxReport.accepted.map messageVector
    popValid := cmdReport.popValid
    popMsg := cmdReport.poppedMessage.map messageVector
    len := s.len
    capacity := s.capacity
    empty := s.empty
    full := s.full }

/-- The cycle's `RX`, if `rx_valid` is 1. -/
def cycleRx (i : PortsIn) (s : State) : Host.Outcome State Fault Refusal :=
  if i.rxValid = true then exec (decodeByte s.cfg i.rxByte) s else .next s.idle

/-- The cycle's consumer command. -/
def cycleCmd (i : PortsIn) (s : State) : Host.Outcome State Fault Refusal := exec (decodeCommand i.cmd) s

/-- R67, R41, R162: one clock cycle. The order of its two operations is the argument `order`, free at every
cycle. -/
def cycle (order : SameCycleOrder) (i : PortsIn) (s : State) : Host.Outcome (State × PortsOut) Fault Refusal :=
  if i.rst = true then
    andThen (exec .reset s) fun t => .next (t.idle, portsOut s .nothing .nothing)
  else
    match order with
    | .rxFirst =>
      andThen (cycleRx i s) fun t =>
        andThen (cycleCmd i t) fun u => .next (u.idle, portsOut s t.report u.report)
    | .cmdFirst =>
      andThen (cycleCmd i s) fun t =>
        andThen (cycleRx i t) fun u => .next (u.idle, portsOut s u.report t.report)

end Sys2Proof.Machine
end

