-- ==== Sys2Proof/Machine/RefQueue.lean ====
section
/-! DEFINITION. The reference implementation of the queue with a storage and read and write pointers, on its own
(spec/10_state.md R17, spec/41_message_queue.md R96), and what it means that it stands for the queue of a `State`. -/

namespace Sys2Proof.Machine

/-- R17: `SLOT[0..N-1]`, `wr_ptr`, `rd_ptr`, `count`. -/
structure RefQueue where
  slots : List Message
  wrPtr : Nat
  rdPtr : Nat
  count : Nat
  deriving DecidableEq, Repr

/-- R96: `QPUSH(m)`. -/
def RefQueue.push (N : Nat) (m : Message) (r : RefQueue) : Bool × RefQueue :=
  if r.count = N then (false, r)
  else
    (true, { slots := r.slots.set r.wrPtr m, wrPtr := (r.wrPtr + 1) % N, rdPtr := r.rdPtr, count := r.count + 1 })

/-- R96: `POP()`. -/
def RefQueue.pop (N : Nat) (r : RefQueue) : Option Message × RefQueue :=
  if r.count = 0 then (none, r)
  else (r.slots[r.rdPtr]?, { r with rdPtr := (r.rdPtr + 1) % N, count := r.count - 1 })

/-- R96: `CLEAR()`, the contents of `SLOT` left as they are. -/
def RefQueue.clear (r : RefQueue) : RefQueue := { r with wrPtr := 0, rdPtr := 0, count := 0 }

/-- R25, R160: after `RESET` the contents of `SLOT` are unspecified, so they are an argument. -/
def RefQueue.reset (slots : List Message) : RefQueue := { slots := slots, wrPtr := 0, rdPtr := 0, count := 0 }

/-- R17: the abstraction function, `Q = [ SLOT[(rd_ptr + i) mod N] for i = 0 to count-1 ]`. -/
def RefQueue.abs (N : Nat) (r : RefQueue) : List Message :=
  (List.range r.count).filterMap fun i => r.slots[(r.rdPtr + i) % N]?

/-- R17: `N` slots, pointers below `N`, `count` at most `N`, and INV4. -/
structure RefQueue.Inv (N : Nat) (r : RefQueue) : Prop where
  slots_length : r.slots.length = N
  rdPtr_lt : r.rdPtr < N
  wrPtr_lt : r.wrPtr < N
  count_le : r.count ≤ N
  inv4 : r.wrPtr = (r.rdPtr + r.count) % N

end Sys2Proof.Machine
end

