-- ==== Sys2Proof/Machine/Stream.lean ====
section
/-! DEFINITION. Sequences: frame encoding and the pseudo-operations (spec/30_encoding.md R54, R62, R65), running a
sequence of operations in one total order (R36), what a byte stream decodes to (spec/40_frame_decoder.md R86), and
the ghost history of the FIFO law (spec/41_message_queue.md R98). -/

namespace Sys2Proof.Machine

/-- A byte that may stand in CODE or ARGS (R50, R58). -/
abbrev Payload (c : Config) (b : Byte) : Prop := b ≠ c.startByte ∧ b ≠ c.endByte

/-- R54: `Encode(c, a)`; also the pseudo-operation `FRAME` of R65. Undefined by R54, hence of no meaning here,
when a payload byte is a sentinel. -/
def encodeFrame (c : Config) (code : Byte) (args : List Byte) : List Byte :=
  [c.startByte, code] ++ args ++ [c.endByte]

/-- R65: `FILL n, v`. -/
def fill (n : Nat) (v : Byte) : List Byte := List.replicate n v

/-- R36: operations one after another in the given order; the first refusal ends the run. -/
def execAll : List Instr → State → Host.Outcome State Fault Refusal
  | [], s => .next s
  | i :: is, s => andThen (exec i s) (execAll is)

/-- R37: the bytes of a stream, one `RX` each, in arrival order. -/
def feed (c : Config) (bytes : List Byte) (s : State) : Host.Outcome State Fault Refusal :=
  execAll (bytes.map (decodeByte c)) s

/-- The words of a total order, one turn each. -/
def execTurns : List (Option PortWord) → State → Host.Outcome State Fault Refusal
  | [], s => .next s
  | t :: ts, s => andThen (execTurn t s) (execTurns ts)

/-- The turns that a schedule makes of what the three agents have yet to do: the total order of R36. -/
def schedule : List Agent → List Byte → List ConsumerRequest → List (BitVec 1) → List (Option PortWord)
  | [], _, _, _ => []
  | .producer :: ts, [], cs, rs => none :: schedule ts [] cs rs
  | .producer :: ts, b :: bs, cs, rs => some (.rx b) :: schedule ts bs cs rs
  | .consumer :: ts, bs, [], rs => none :: schedule ts bs [] rs
  | .consumer :: ts, bs, c :: cs, rs => some (.request c) :: schedule ts bs cs rs
  | .orchestrator :: ts, bs, cs, [] => none :: schedule ts bs cs []
  | .orchestrator :: ts, bs, cs, r :: rs => some (.rst r) :: schedule ts bs cs rs

/-- The report of each of the next `k` steps, up to the first refusal. -/
def stepReports : Nat → State → List Report
  | 0, _ => []
  | k + 1, s =>
    match step s with
    | .next t => t.report :: stepReports k t
    | .fault _ => []
    | .refused _ => []

/-- The bytes after the last START of a piece of stream, if it has one. -/
def afterLastStart (c : Config) : List Byte → Option (List Byte)
  | [] => none
  | b :: bs =>
    match afterLastStart c bs with
    | some d => some d
    | none => if b = c.startByte then some bs else none

/-- R86: the Message an END makes of the piece of stream since the END (or the reset) before it, if the nearest
earlier sentinel is a START. -/
def pieceMessage (c : Config) (piece : List Byte) : Option Message :=
  (afterLastStart c piece).map fun d => mkMessage c (d.take c.P)

/-- R86: the Messages a stream decodes to, cutting it at every END; `piece` is what came since the last cut. -/
def streamMessagesFrom (c : Config) (piece : List Byte) : List Byte → List Message
  | [] => []
  | b :: bs =>
    if b = c.endByte then (pieceMessage c piece).toList ++ streamMessagesFrom c [] bs
    else streamMessagesFrom c (piece ++ [b]) bs

/-- R86, from a decoder that is idle. -/
def streamMessages (c : Config) (bytes : List Byte) : List Message := streamMessagesFrom c [] bytes

/-- R98: the Messages given to successful `QPUSH`es less those a `CLEAR` or `RESET` deleted, and the Messages
returned by successful `POP`s. A ghost: no state holds it. -/
structure History where
  pushed : List Message
  popped : List Message
  deriving DecidableEq, Repr

/-- R98: how one operation with its report extends the two sequences; `CLEAR` and `RESET` delete from the first what
is not yet popped. -/
def History.note (h : History) (i : Instr) (r : Report) : History :=
  match i with
  | .startFrame => { h with pushed := h.pushed ++ r.accepted.toList }
  | .endFrame => { h with pushed := h.pushed ++ r.accepted.toList }
  | .data _ => { h with pushed := h.pushed ++ r.accepted.toList }
  | .nop => h
  | .pop => { h with popped := h.popped ++ r.poppedMessage.toList }
  | .clear => { h with pushed := h.pushed.take h.popped.length }
  | .reservedCmd3 => h
  | .qpush m => { h with pushed := h.pushed ++ (if r = .pushed true then [m] else []) }
  | .len => h
  | .capacity => h
  | .reset => { h with pushed := h.pushed.take h.popped.length }

/-- R98: a run with its history; nothing if it is refused. -/
def runHistory : List Instr → State → History → Option (State × History)
  | [], s, h => some (s, h)
  | i :: is, s, h =>
    match exec i s with
    | .next t => runHistory is t (h.note i t.report)
    | .fault _ => none
    | .refused _ => none

end Sys2Proof.Machine
end

