-- ==== Sys2Proof/Machine/Environment.lean ====
section
/-! DEFINITION. The consumer-side environment of spec/48_dispatcher_environment.md: the Command Dispatcher, the
Handshake State and the UI State. It is not part of the block (R110): no field of `State` holds it and no operation
of the block reads or writes it. -/

namespace Sys2Proof.Machine

/-- R119, R129: the mode enum. -/
inductive Mode where
  | manual
  | auto
  | ai
  deriving DecidableEq, Repr

/-- R118: the UI fields that are copied from the arguments, named as R126 pairs them with the codes. -/
inductive UiField where
  | face
  | hostname
  | channel
  | apStat
  | uptime
  | handshakes
  | status
  deriving DecidableEq, Repr

/-- R129: the UI State. How a numeric field is parsed is in no source (N14), so each field is the bytes copied. -/
structure UiState where
  face : List Byte
  hostname : List Byte
  channel : List Byte
  apStat : List Byte
  uptime : List Byte
  handshakes : List Byte
  status : List Byte
  mode : Mode
  deriving DecidableEq, Repr

def UiState.get (u : UiState) : UiField → List Byte
  | .face => u.face
  | .hostname => u.hostname
  | .channel => u.channel
  | .apStat => u.apStat
  | .uptime => u.uptime
  | .handshakes => u.handshakes
  | .status => u.status

def UiState.set (u : UiState) (f : UiField) (v : List Byte) : UiState :=
  match f with
  | .face => { u with face := v }
  | .hostname => { u with hostname := v }
  | .channel => { u with channel := v }
  | .apStat => { u with apStat := v }
  | .uptime => { u with uptime := v }
  | .handshakes => { u with handshakes := v }
  | .status => { u with status := v }

/-- What the source leaves open about the dispatcher (R110, U12), taken as arguments. -/
structure EnvConfig where
  /-- N14: the field capacities, this one and the six below -/
  capFace : Nat
  capHostname : Nat
  capChannel : Nat
  capApStat : Nat
  capUptime : Nat
  capHandshakes : Nat
  capStatus : Nat
  /-- N13: what `process_one` answers when the queue is empty -/
  emptyChanges : Bool
  /-- N15: whether an inbound NAK is answered as an unrecognised code -/
  nakIsUnrecognised : Bool
  /-- N17: whether the first ACK counts as a change -/
  firstAckChanges : Bool
  /-- N19: whether the start of a session resets the block -/
  sessionResetsBlock : Bool
  /-- DESIGN CHOICE (log 23): the mode a MODE Message sets when it has no `args[0]`, which is when `A` = 0; R119
  does not say, so it is left open. -/
  modeWithoutArgument : Mode
  deriving DecidableEq, Repr

def EnvConfig.cap (e : EnvConfig) : UiField → Nat
  | .face => e.capFace
  | .hostname => e.capHostname
  | .channel => e.capChannel
  | .apStat => e.capApStat
  | .uptime => e.capUptime
  | .handshakes => e.capHandshakes
  | .status => e.capStatus

/-- What the dispatcher does, in the order it does it. -/
inductive EnvAction where
  /-- R133: the byte sink's "transmit N bytes now" -/
  | transmit (bytes : List Byte)
  | setField (f : UiField) (v : List Byte)
  | setMode (m : Mode)
  deriving DecidableEq, Repr

/-- R129, R130: UI State and Handshake State, and the actions done so far, oldest first. -/
structure Env where
  ui : UiState
  synackComplete : Bool
  log : List EnvAction
  deriving DecidableEq, Repr

/-- R126: the inbound command codes. -/
inductive InboundCommand where
  | syn
  | ack
  | nak
  | field (f : UiField)
  | friendReserved
  | mode
  | unrecognised
  deriving DecidableEq, Repr

/-- R126. -/
def inboundCommand (code : Byte) : InboundCommand :=
  if code = 0x16#8 then .syn
  else if code = 0x06#8 then .ack
  else if code = 0x15#8 then .nak
  else if code = 0x04#8 then .field .face
  else if code = 0x05#8 then .field .hostname
  else if code = 0x0D#8 then .field .channel
  else if code = 0x07#8 then .field .apStat
  else if code = 0x08#8 then .field .uptime
  else if code = 0x09#8 then .friendReserved
  else if code = 0x0A#8 then .mode
  else if code = 0x0B#8 then .field .handshakes
  else if code = 0x0C#8 then .field .status
  else .unrecognised

/-- R127: the outbound command codes. Only `uiRefresh` is sent by anything the spec describes (N16). -/
inductive OutboundCommand where
  | reboot
  | shutdown
  | mode
  | uiRefresh
  | clockSet
  deriving DecidableEq, Repr

/-- R127; a code space of its own: 0x04 inbound is FACE (R126). -/
def OutboundCommand.code : OutboundCommand → Byte
  | .reboot => 0x04#8
  | .shutdown => 0x05#8
  | .mode => 0x07#8
  | .uiRefresh => 0x08#8
  | .clockSet => 0x09#8

/-- R62, R128: the four replies. -/
def ackFrame (c : Config) : List Byte := encodeFrame c 0x06#8 []
def nakFrame (c : Config) : List Byte := encodeFrame c 0x15#8 []
def synFrame (c : Config) : List Byte := encodeFrame c 0x16#8 []
def uiRefreshFrame (c : Config) : List Byte := encodeFrame c OutboundCommand.uiRefresh.code []

def Env.transmit (e : Env) (bytes : List Byte) : Env := { e with log := e.log ++ [.transmit bytes] }

/-- R118: at most `cap` argument bytes, stopping at the first zero byte. -/
def copyField (cap : Nat) (args : List Byte) : List Byte := (args.take cap).takeWhile fun b => b != 0#8

/-- R122: one UI field replaced whole. -/
def Env.setField (e : Env) (f : UiField) (v : List Byte) : Env :=
  { e with ui := e.ui.set f v, log := e.log ++ [.setField f v] }

def Env.setMode (e : Env) (m : Mode) : Env :=
  { e with ui := { e.ui with mode := m }, log := e.log ++ [.setMode m] }

/-- R119: 0x04 Manual, 0x05 Auto, 0x06 AI, any other value Manual. -/
def modeOf (b : Byte) : Mode :=
  if b = 0x04#8 then .manual else if b = 0x05#8 then .auto else if b = 0x06#8 then .ai else .manual

/-- R119: the mode of a MODE Message, from `args[0]`; DESIGN CHOICE (log 23): open when there is none. -/
def modeOfArgs (ec : EnvConfig) : List Byte → Mode
  | [] => ec.modeWithoutArgument
  | a :: _ => modeOf a

/-- R115 to R121: what the dispatcher does with one Message, and whether the UI state changed. -/
def interpret (c : Config) (ec : EnvConfig) (m : Message) (e : Env) : Env × Bool :=
  match inboundCommand m.code with
  | .syn => (e.transmit (ackFrame c), false)
  | .ack =>
    if e.synackComplete = true then (e, false)
    else ({ e with synackComplete := true }.transmit (uiRefreshFrame c), ec.firstAckChanges)
  | .nak => if ec.nakIsUnrecognised = true then (e.transmit (nakFrame c), false) else (e, false)
  | .field f => ((e.transmit (ackFrame c)).setField f (copyField (ec.cap f) m.args), true)
  | .friendReserved => (e.transmit (ackFrame c), false)
  | .mode => ((e.transmit (ackFrame c)).setMode (modeOfArgs ec m.args), true)
  | .unrecognised => (e.transmit (nakFrame c), false)

/-- R113: the Messages interpreted one after another. -/
def interpretAll (c : Config) (ec : EnvConfig) : List Message → Env → Env
  | [], e => e
  | m :: ms, e => interpretAll c ec ms (interpret c ec m e).1

/-- The byte sequences an action list transmits, in order. -/
def transmissions : List EnvAction → List (List Byte)
  | [] => []
  | .transmit bytes :: rest => bytes :: transmissions rest
  | .setField _ _ :: rest => transmissions rest
  | .setMode _ :: rest => transmissions rest

/-- R133: what went out through the byte sink, oldest first. -/
def Env.sent (e : Env) : List (List Byte) := transmissions e.log

/-- R125: on session start SYN is sent and `synack_complete` is false. DESIGN CHOICE (log 25): R125 does not say what
a session start does to the UI State, so the whole record becomes the argument `ui`, free in every claim (the record as
it was among its values), and no action is logged for it. -/
def Env.startSession (c : Config) (ui : UiState) (e : Env) : Env :=
  { e with ui := ui, synackComplete := false }.transmit (synFrame c)

/-- R125: the environment at the start of the first session. -/
def sessionStart (c : Config) (ui : UiState) : Env :=
  Env.startSession c ui { ui := ui, synackComplete := false, log := [] }

/-- R114: `process_one`, one `POP` of the block and what the dispatcher does with its result; with no Message nothing
else happens, and the answer is open (N13). -/
def processOne (ec : EnvConfig) (s : State) (e : Env) : Host.Outcome (State × Env × Bool) Fault Refusal :=
  andThen (exec .pop s) fun t =>
    match t.report.poppedMessage with
    | none => .next (t, e, ec.emptyChanges)
    | some m => .next (t, interpret s.cfg ec m e)

/-- R113: a drain that no other agent interrupts: `POP` until it returns `None`; `fuel` bounds the number of `POP`s,
and one more than the queue's length is enough. The dispatcher on its own schedule, woken by the signal, is
Machine/Session.lean. -/
def drain (ec : EnvConfig) : Nat → State → Env → Host.Outcome (State × Env) Fault Refusal
  | 0, s, e => .next (s, e)
  | fuel + 1, s, e =>
    andThen (exec .pop s) fun t =>
      match t.report.poppedMessage with
      | none => .next (t, e)
      | some m => drain ec fuel t (interpret s.cfg ec m e).1

end Sys2Proof.Machine
end

