-- ==== Sys2Proof/Machine/Session.lean ====
section
/-! DEFINITION. The block with its producer and the dispatcher's schedule (spec/48_dispatcher_environment.md R112,
R113): "message available" wakes the dispatcher, which then takes `POP`s until one returns `None`, while bytes go on
arriving between them. -/

namespace Sys2Proof.Machine

/-- The block, the environment of the dispatcher, and whether the dispatcher is draining (`awake`) or waits. -/
structure Session where
  block : State
  env : Env
  awake : Bool
  deriving DecidableEq, Repr

/-- Who acts next, and with what. Any list of turns is a legal schedule (R36, R110, R113). -/
inductive SessionTurn where
  /-- R111: the Byte Receiver delivers a byte. -/
  | byte (b : Byte)
  /-- R113, R114: the dispatcher's schedule runs for one `process_one`, if it is awake. -/
  | dispatcher
  /-- R94: the consumer clears the queue. -/
  | clear
  /-- R160: the orchestrator resets the block. -/
  | reset
  /-- R125: a session starts; `ui` is what the UI State then holds (DESIGN CHOICE, log 25). -/
  | start (ui : UiState)
  deriving DecidableEq, Repr

/-- R40, R112, R144: the block after an operation; its signal wakes the dispatcher, and nothing takes a signal
back (R94). DESIGN CHOICE (log 24): no wake-up is lost; R144 leaves the waking to an external primitive. -/
def Session.withBlock (x : Session) (t : State) : Session :=
  { x with block := t, awake := x.awake || t.report.msgAvail }

/-- R113: after a `process_one` the dispatcher returns to wait exactly when its `POP` returned `None`. -/
def Session.afterProcess (r : State × Env × Bool) : Session :=
  { block := r.1, env := r.2.1, awake := r.1.report.poppedMessage.isSome }

/-- One turn. -/
def sessionStep (ec : EnvConfig) (turn : SessionTurn) (x : Session) : Host.Outcome Session Fault Refusal :=
  match turn with
  | .byte b => andThen (exec (decodeByte x.block.cfg b) x.block) fun t => .next (x.withBlock t)
  | .dispatcher =>
    if x.awake = true then andThen (processOne ec x.block x.env) fun r => .next (Session.afterProcess r)
    else .next (x.withBlock x.block.idle)
  | .clear => andThen (exec .clear x.block) fun t => .next (x.withBlock t)
  | .reset => andThen (exec .reset x.block) fun t => .next (x.withBlock t)
  | .start ui =>
    let y := { x with env := x.env.startSession x.block.cfg ui }
    if ec.sessionResetsBlock = true then andThen (exec .reset y.block) fun t => .next (y.withBlock t)
    else .next (y.withBlock y.block.idle)

/-- A schedule, turn by turn. -/
def runSession (ec : EnvConfig) : List SessionTurn → Session → Host.Outcome Session Fault Refusal
  | [], x => .next x
  | turn :: turns, x => andThen (sessionStep ec turn x) (runSession ec turns)

/-- The Messages the block accepts during a schedule, in order. -/
def sessionAccepted (ec : EnvConfig) : List SessionTurn → Session → List Message
  | [], _ => []
  | turn :: turns, x =>
    match sessionStep ec turn x with
    | .next y => y.block.report.accepted.toList ++ sessionAccepted ec turns y
    | .fault _ => []
    | .refused _ => []

/-- A turn of the two schedules of R113: the decoder's or the dispatcher's. -/
def SessionTurn.isSchedule : SessionTurn → Bool
  | .byte _ => true
  | .dispatcher => true
  | .clear => false
  | .reset => false
  | .start _ => false

end Sys2Proof.Machine
end

