-- ==== Sys2Proof/Safety.lean ====
section
/-! DEFINITION. What the claims take as given or promise: the invariants of the block and what of a state no agent
can observe. -/

namespace Sys2Proof

open Sys2Proof.Machine

/-- R11 and R16, for one state. -/
structure BoundInv (s : State) : Prop where
  /-- INV1: `partial_length <= P` -/
  inv1 : s.partialBuffer.length ≤ s.cfg.P
  /-- INV2: `in_progress = false` implies `partial_length = 0` -/
  inv2 : s.inProgress = false → s.partialBuffer = []
  /-- INV3: `|Q| <= N` -/
  inv3 : s.queue.length ≤ s.cfg.N

/-- Everything the block keeps from `RESET` on: R5's constraints, INV1 to INV3, `rd_ptr` a slot index (R17), no
sentinel in `PB` (R44), every queued Message of `A` argument bytes (R13), and every byte of a queued Message a
payload byte or a zero (R55, R44). -/
structure BlockInv (s : State) : Prop where
  legal : s.cfg.Legal
  bounds : BoundInv s
  rdPtr_lt : s.rdPtr < s.cfg.N
  pb_payload : ∀ b ∈ s.partialBuffer, Payload s.cfg b
  queue_wf : ∀ m ∈ s.queue, m.wf s.cfg
  queue_payload : ∀ m ∈ s.queue, ∀ b ∈ m.bytes, b = 0#8 ∨ Payload s.cfg b

/-- R21, R23: two states that differ at most in what no operation lets an agent observe, `rd_ptr`, and in the
report of the step before. -/
structure SameArchitecture (s t : State) : Prop where
  cfg : s.cfg = t.cfg
  inProgress : s.inProgress = t.inProgress
  partialBuffer : s.partialBuffer = t.partialBuffer
  queue : s.queue = t.queue
  rxIn : s.rxIn = t.rxIn
  cmdIn : s.cmdIn = t.cmdIn
  rstIn : s.rstIn = t.rstIn
  turns : s.turns = t.turns

/-- An `RX` operation. -/
def isRx : Instr → Bool
  | .startFrame => true
  | .endFrame => true
  | .data _ => true
  | .nop => false
  | .pop => false
  | .clear => false
  | .reservedCmd3 => false
  | .qpush _ => false
  | .len => false
  | .capacity => false
  | .reset => false

/-- An operation of the consumer that may stand between the bytes of a frame (R85: no `RESET`). -/
def isConsumerOp : Instr → Bool
  | .nop => true
  | .pop => true
  | .clear => true
  | .len => true
  | .capacity => true
  | .startFrame => false
  | .endFrame => false
  | .data _ => false
  | .reservedCmd3 => false
  | .qpush _ => false
  | .reset => false

/-- R104: the pointer implementation stands for the queue of a state: its invariants hold, the abstraction function
gives `Q`, and `rd_ptr` is the state's. -/
structure RefQueue.Represents (r : RefQueue) (s : State) : Prop where
  inv : RefQueue.Inv s.cfg.N r
  abs_eq : RefQueue.abs s.cfg.N r = s.queue
  rdPtr_eq : r.rdPtr = s.rdPtr

/-- The byte a turn delivers to the receive port, if it does. -/
def turnByte : Option PortWord → Option Byte
  | some (.rx b) => some b
  | some (.request _) => none
  | some (.rst _) => none
  | none => none

/-- The request a turn puts to the command port, if it does. -/
def turnRequest : Option PortWord → Option ConsumerRequest
  | some (.request r) => some r
  | some (.rx _) => none
  | some (.rst _) => none
  | none => none

/-- The level of `rst` a turn drives, if it does. -/
def turnLevel : Option PortWord → Option (BitVec 1)
  | some (.rst level) => some level
  | some (.rx _) => none
  | some (.request _) => none
  | none => none

/-- R41: an END that closes a frame meets a `CLEAR`, or a `POP` with the queue full or empty. -/
def OrderMatters (i : PortsIn) (s : State) : Prop :=
  i.rxValid = true ∧ i.rxByte = s.cfg.endByte ∧ s.inProgress = true ∧
    (i.cmd = 0b10#2 ∨ i.cmd = 0b01#2 ∧ (s.queue.length = s.cfg.N ∨ s.queue.length = 0))

/-- R113, R40: no Message waits in the queue while the dispatcher waits for a signal. -/
def NoneStranded (x : Session) : Prop := x.awake = true ∨ x.block.queue = []

end Sys2Proof
end

