-- ==== Sys2Proof/Certificates/Slice0/Obligations.lean ====
section
/-! DEFINITION. The statements for the provers, from the numbered rules of spec/. -/

open Sys2Proof Sys2Proof.Machine

/-! ### The operations: what each one answers -/

/-- R71, R73 (decision D23): a START opens a new candidate frame in every state, silently dropping what was kept. -/
def Obligations.StartOpensFrame : Prop :=
  ∀ s : State,
    exec .startFrame s =
      .next { s with inProgress := true, partialBuffer := [], report := .received .evStart none }

/-- R72: while idle, every byte but START is dropped with `EV_DESYNC`, END among them; nothing else changes. -/
def Obligations.IdleByteIsDropped : Prop :=
  ∀ s : State, s.inProgress = false →
    (s.cfg.startByte ≠ s.cfg.endByte →
      exec .endFrame s = .next { s with report := .received .evDesync none }) ∧
    (∀ b : Byte, b ≠ s.cfg.startByte →
      exec (.data b) s = .next { s with report := .received .evDesync none } ∧
      exec (decodeByte s.cfg b) s = .next { s with report := .received .evDesync none })

/-- R74: an END in frame with a free slot enqueues the Message built from `PB` and leaves the decoder idle. -/
def Obligations.EndAcceptsFrame : Prop :=
  ∀ s : State, s.cfg.startByte ≠ s.cfg.endByte → s.inProgress = true → s.queue.length < s.cfg.N →
    exec .endFrame s =
      .next { s with
        queue := s.queue ++ [mkMessage s.cfg s.partialBuffer]
        inProgress := false
        partialBuffer := []
        report := .received .evAccept (some (mkMessage s.cfg s.partialBuffer)) } ∧
    (Report.received .evAccept (some (mkMessage s.cfg s.partialBuffer))).msgAvail = true

/-- R75: an END in frame on a full queue drops the frame; the queue stays, the decoder is idle. -/
def Obligations.EndOnFullQueueDropsFrame : Prop :=
  ∀ s : State, s.cfg.startByte ≠ s.cfg.endByte → s.inProgress = true → s.queue.length = s.cfg.N →
    exec .endFrame s =
      .next { s with inProgress := false, partialBuffer := [], report := .received .evQFull none } ∧
    (Report.received .evQFull none).msgAvail = false

/-- R76: a payload byte with room is written at `PB[partial_length]`, and nothing else of `PB` changes. -/
def Obligations.DataAppends : Prop :=
  ∀ (s : State) (b : Byte), b ≠ s.cfg.startByte → b ≠ s.cfg.endByte → s.inProgress = true →
    s.partialLength < s.cfg.P →
    ∃ t : State, exec (.data b) s = .next t ∧
      t = { s with partialBuffer := t.partialBuffer, report := .received .evAppend none } ∧
      t.partialLength = s.partialLength + 1 ∧ t.pb s.partialLength = some b ∧
      ∀ k : Nat, k ≠ s.partialLength → t.pb k = s.pb k

/-- R77: a payload byte beyond capacity is dropped with `EV_OVERFLOW`; the decoder stays in frame. -/
def Obligations.DataOverflowDropsByte : Prop :=
  ∀ (s : State) (b : Byte), b ≠ s.cfg.startByte → b ≠ s.cfg.endByte → s.inProgress = true →
    s.partialLength = s.cfg.P →
    exec (.data b) s = .next { s with report := .received .evOverflow none }

/-- R91: `QPUSH m` on a full queue answers false and changes nothing; else it appends and answers true. -/
def Obligations.QpushTriesToAppend : Prop :=
  ∀ (s : State) (m : Message),
    (s.queue.length = s.cfg.N → exec (.qpush m) s = .next { s with report := .pushed false }) ∧
    (s.queue.length ≠ s.cfg.N →
      exec (.qpush m) s = .next { s with queue := s.queue ++ [m], report := .pushed true }) ∧
    (s.queue.length + 1 = s.cfg.N → ({ s with queue := s.queue ++ [m] } : State).full = true)

/-- R92, with the pointer of R96: `POP` answers `None` on an empty queue and changes nothing; else it removes and
answers the oldest Message, and a full queue is full no more. -/
def Obligations.PopRemovesOldest : Prop :=
  ∀ s : State,
    (s.queue = [] → exec .pop s = .next { s with report := .popped none }) ∧
    (∀ (m : Message) (rest : List Message), s.queue = m :: rest →
      exec .pop s =
        .next { s with queue := rest, rdPtr := (s.rdPtr + 1) % s.cfg.N, report := .popped (some m) } ∧
      (s.queue.length = s.cfg.N → ({ s with queue := rest } : State).full = false))

/-- R94 (decision D12), with the pointers of R96: `CLEAR` empties the queue and leaves the Decoder State; it is idempotent. -/
def Obligations.ClearEmptiesQueueOnly : Prop :=
  ∀ s : State,
    exec .clear s = .next { s with queue := [], rdPtr := 0, report := .nothing } ∧
    exec .clear { s with queue := [], rdPtr := 0, report := .nothing } =
      .next { s with queue := [], rdPtr := 0, report := .nothing } ∧
    ({ s with queue := [], rdPtr := 0 } : State).len = 0 ∧
    ({ s with queue := [], rdPtr := 0 } : State).empty = true ∧
    (1 ≤ s.cfg.N → ({ s with queue := [], rdPtr := 0 } : State).full = false) ∧
    ({ s with queue := [], rdPtr := 0 } : State).wrPtr = 0

/-- R95 (decision D9): `NOP` leaves the state as it is; no event and no pop result. -/
def Obligations.NopDoesNothing : Prop :=
  ∀ s : State, exec .nop s = .next { s with report := .nothing } ∧
    Report.nothing.event = .evNone ∧ Report.nothing.popValid = false

/-- R93: the status reads answer `|Q|` and `N` and write nothing; `EMPTY` and `FULL` are as defined. -/
def Obligations.StatusReads : Prop :=
  ∀ s : State,
    exec .len s = .next { s with report := .length s.queue.length } ∧
    exec .capacity s = .next { s with report := .capacity s.cfg.N } ∧
    s.len = s.queue.length ∧ s.capacity = s.cfg.N ∧
    (s.empty = true ↔ s.queue.length = 0) ∧ (s.full = true ↔ s.queue.length = s.cfg.N)

/-- R60 (decision D9): the reserved command is refused, as an operation and when the consumer drives it. -/
def Obligations.ReservedCommandIsRefused : Prop :=
  decodeCommand 0b11#2 = .reservedCmd3 ∧
  ∀ s : State,
    exec .reservedCmd3 s = .refused .reservedCommand ∧
    (s.cfg.Legal → ∀ (ts : List Agent) (rs : List ConsumerRequest),
      s.turns = .consumer :: ts → s.cmdIn = .command 0b11#2 :: rs → step s = .refused .reservedCommand)

/-- R160 (decision D11): `RESET` writes every state element of the block, reports nothing, keeps the constants, and is
idempotent; no byte and no command asks for it. -/
def Obligations.ResetOperation : Prop :=
  ∀ s : State,
    exec .reset s =
      .next { s with inProgress := false, partialBuffer := [], queue := [], rdPtr := 0, report := .nothing } ∧
    exec .reset { s with inProgress := false, partialBuffer := [], queue := [], rdPtr := 0, report := .nothing } =
      .next { s with inProgress := false, partialBuffer := [], queue := [], rdPtr := 0, report := .nothing } ∧
    ∀ w : PortWord, decode s.cfg w = .ok .reset ↔ w = .rst 1#1

/-- R25 (decision D11 for the queue): the values after `RESET`, from any state and in the machine's reset state. -/
def Obligations.ResetValues : Prop :=
  (∀ s : State, s.cfg.Legal → (s = State.reset ∨ ∃ s' : State, exec .reset s' = .next s) →
    s.inProgress = false ∧ s.partialLength = 0 ∧ s.queue = [] ∧ s.count = 0 ∧ s.rdPtr = 0 ∧ s.wrPtr = 0 ∧
    s.len = 0 ∧ s.empty = true ∧ s.full = false ∧ s.capacity = s.cfg.N ∧ s.report.event = .evNone) ∧
  ∀ (c : Config) (ui : UiState), (sessionStart c ui).synackComplete = false

/-! ### Encodings -/

/-- R51: each of the 256 bytes matches exactly one row of the table, the row of its class; the classes are decided
by comparison with the sentinels, for the documented ones by `b[7:1]` and `b[0]`; 1, 1 and 254 bytes are in them. -/
def Obligations.ByteClassesMatchTable : Prop :=
  (∀ b : Byte, (receiveRows.filter fun r => r.matches b).map (fun r => r.mnemonic) =
    [(byteClass Config.documented b).mnemonic]) ∧
  (∀ (c : Config) (b : Byte), c.startByte ≠ c.endByte →
    (byteClass c b = .start ↔ b = c.startByte) ∧ (byteClass c b = .finish ↔ b = c.endByte) ∧
    (byteClass c b = .data ↔ b ≠ c.startByte ∧ b ≠ c.endByte)) ∧
  (∀ b : Byte, (byteClass Config.documented b = .data ↔ b.extractLsb' 1 7 ≠ 0b0000001#7) ∧
    (byteClass Config.documented b = .start ↔ b.extractLsb' 1 7 = 0b0000001#7 ∧ b.getLsbD 0 = false) ∧
    (byteClass Config.documented b = .finish ↔ b.extractLsb' 1 7 = 0b0000001#7 ∧ b.getLsbD 0 = true)) ∧
  ((List.range 256).map fun k => byteClass Config.documented (BitVec.ofNat 8 k)).count .start = 1 ∧
  ((List.range 256).map fun k => byteClass Config.documented (BitVec.ofNat 8 k)).count .finish = 1 ∧
  ((List.range 256).map fun k => byteClass Config.documented (BitVec.ofNat 8 k)).count .data = 254

/-- R59 (decision D9): the command word's four values. -/
def Obligations.CommandEncoding : Prop :=
  ∀ c : Config,
    decode c (.request (.command 0b00#2)) = .ok .nop ∧ decode c (.request (.command 0b01#2)) = .ok .pop ∧
    decode c (.request (.command 0b10#2)) = .ok .clear ∧ decode c (.request (.command 0b11#2)) = .ok .reservedCmd3

/-- Words written out from R51, R59 and R67 decode to the operations they stand for. -/
def Obligations.WordsDecode : Prop :=
  decodeTableWord 8 0b00000010 = some .startFrame ∧ decodeTableWord 8 0b00000011 = some .endFrame ∧
  decodeTableWord 8 0b10000000 = some (.data 0x80#8) ∧ decodeTableWord 8 0b01000001 = some (.data 0x41#8) ∧
  decodeTableWord 8 0b00100000 = some (.data 0x20#8) ∧ decodeTableWord 8 0b00010110 = some (.data 0x16#8) ∧
  decodeTableWord 8 0b00001010 = some (.data 0x0A#8) ∧ decodeTableWord 8 0b00000100 = some (.data 0x04#8) ∧
  decodeTableWord 8 0b00000001 = some (.data 0x01#8) ∧ decodeTableWord 2 0b01 = some .pop ∧
  decodeTableWord 1 0b1 = some .reset

/-- Decode and encode agree: a well-formed operation that has a word is what its word decodes to, and a word that
is an operation is the word of that operation, which is well formed. That `LEN` and `CAPACITY` have a word, the
requests `readLen` and `readCapacity`, is the model's choice (log 20: R93 gives them no encoding), and so is that only
`QPUSH` has none. -/
def Obligations.DecodeEncodeAgree : Prop :=
  ∀ c : Config, c.Legal →
    (∀ (i : Instr) (w : PortWord), i.wf c = true → encode c i = some w → decode c w = .ok i) ∧
    (∀ (w : PortWord) (i : Instr), decode c w = .ok i → i.wf c = true ∧ encode c i = some w) ∧
    (∀ i : Instr, encode c i = none ↔ ∃ m : Message, i = .qpush m)

/-- R55 (decisions D4, D5): `MkMessage(buf, len)` byte by byte; with R5's constraint no kept byte is lost. -/
def Obligations.MessageAssembly : Prop :=
  ∀ (c : Config) (buf : List Byte), c.Legal → buf.length ≤ c.P →
    (∀ h : 0 < buf.length, (mkMessage c buf).code = buf[0]) ∧
    (buf = [] → (mkMessage c buf).code = 0#8) ∧
    (mkMessage c buf).args.length = c.A ∧
    (∀ i : Nat, i < c.A → ∀ h : i + 1 < buf.length, (mkMessage c buf).args[i]? = some buf[i + 1]) ∧
    (∀ i : Nat, i < c.A → buf.length ≤ i + 1 → (mkMessage c buf).args[i]? = some 0#8) ∧
    (∀ k : Nat, k < buf.length → (mkMessage c buf).bytes[k]? = buf[k]?)

/-- R56 (decision D15): byte `k` of a Message is at bits `8k+7` down to `8k` of the vector, which has `8*(1+A)` bits. -/
def Obligations.MessageVectorLayout : Prop :=
  ∀ (c : Config) (m : Message), m.wf c →
    messageVector m < 2 ^ (8 * (1 + c.A)) ∧
    messageVector m % 256 = m.code.toNat ∧
    ∀ (k : Nat) (h : k < m.bytes.length), messageVector m / 2 ^ (8 * k) % 256 = (m.bytes[k]).toNat

/-- From R55 (the model's reading of R169's first sentence): a trailing zero byte of a frame that fits leaves no
trace in the Message. -/
def Obligations.TrailingZeroIsPadding : Prop :=
  ∀ (c : Config) (buf : List Byte), mkMessage c (buf ++ [0#8]) = mkMessage c buf

/-! ### A step -/

/-- R36, R37: the agent whose turn it is puts its oldest word to its port, and the step is the operation it decodes
to, in the state without that word and that turn. -/
def Obligations.StepRunsDecodedOperation : Prop :=
  ∀ (s : State) (ts : List Agent), s.cfg.Legal →
    (∀ (b : Byte) (bs : List Byte), s.turns = .producer :: ts → s.rxIn = b :: bs →
      step s = exec (decodeByte s.cfg b) { s with turns := ts, rxIn := bs }) ∧
    (∀ (r : ConsumerRequest) (rs : List ConsumerRequest), s.turns = .consumer :: ts → s.cmdIn = r :: rs →
      step s = exec (decodeRequest r) { s with turns := ts, cmdIn := rs }) ∧
    (∀ ls : List (BitVec 1), s.turns = .orchestrator :: ts → s.rstIn = 1#1 :: ls →
      step s = exec .reset { s with turns := ts, rstIn := ls })

/-- The model's choices of log 7, log 8 and log 9: a turn with no word, no turn, and `rst` at 0 run no operation; a
word placed by `withFetchWord` is what the next step runs. -/
def Obligations.StepWithoutWordAndPlacedWord : Prop :=
  ∀ s : State, s.cfg.Legal →
    (s.turns = [] → step s = .next { s with report := .nothing }) ∧
    (∀ ts : List Agent, s.turns = .producer :: ts → s.rxIn = [] →
      step s = .next { s with turns := ts, report := .nothing }) ∧
    (∀ ts : List Agent, s.turns = .consumer :: ts → s.cmdIn = [] →
      step s = .next { s with turns := ts, report := .nothing }) ∧
    (∀ ts : List Agent, s.turns = .orchestrator :: ts → s.rstIn = [] →
      step s = .next { s with turns := ts, report := .nothing }) ∧
    (∀ (ts : List Agent) (ls : List (BitVec 1)), s.turns = .orchestrator :: ts → s.rstIn = 0#1 :: ls →
      step s = .next { s with turns := ts, rstIn := ls, report := .nothing }) ∧
    (∀ w : Nat, step (s.withFetchWord 8 w) = exec (decodeByte s.cfg (BitVec.ofNat 8 w)) s) ∧
    (∀ w : Nat, step (s.withFetchWord 2 w) = exec (decodeCommand (BitVec.ofNat 2 w)) s) ∧
    step (s.withFetchWord 1 1) = exec .reset s

/-- R36, R37: running a schedule is applying the operations one after another in its order, and each agent's words
are used in the order the agent issued them, each once. -/
def Obligations.RunIsOneTotalOrder : Prop :=
  ∀ s : State, s.cfg.Legal →
    (∀ t : State, Host.Core.run Sys2Proof.core s.turns.length s = .next t →
      ∃ u : State, execTurns (schedule s.turns s.rxIn s.cmdIn s.rstIn) s = .next u ∧
        t = { u with rxIn := t.rxIn, cmdIn := t.cmdIn, rstIn := t.rstIn, turns := [] } ∧
        (schedule s.turns s.rxIn s.cmdIn s.rstIn).filterMap turnByte ++ t.rxIn = s.rxIn ∧
        (schedule s.turns s.rxIn s.cmdIn s.rstIn).filterMap turnRequest ++ t.cmdIn = s.cmdIn ∧
        (schedule s.turns s.rxIn s.cmdIn s.rstIn).filterMap turnLevel ++ t.rstIn = s.rstIn) ∧
    (∀ r : Refusal, Host.Core.run Sys2Proof.core s.turns.length s = .refused r ↔
      execTurns (schedule s.turns s.rxIn s.cmdIn s.rstIn) s = .refused r)

/-- R36: the scheduler can interleave the agents' words in every possible way; every sequence of words is the
total order of some state. -/
def Obligations.EveryInterleavingIsASchedule : Prop :=
  ∀ (s : State) (ws : List PortWord), s.turns = [] → s.rxIn = [] → s.cmdIn = [] → s.rstIn = [] →
    schedule (s.withStimulus ws).turns (s.withStimulus ws).rxIn (s.withStimulus ws).cmdIn
      (s.withStimulus ws).rstIn = ws.map some ∧
    s.withStimulus ws =
      { s with
        turns := ws.map PortWord.agent
        rxIn := ws.filterMap fun w => turnByte (some w)
        cmdIn := ws.filterMap fun w => turnRequest (some w)
        rstIn := ws.filterMap fun w => turnLevel (some w) }

/-- R47, R154, R177: with a legal configuration a step answers a next state, except that the reserved command is
refused (R60); an illegal configuration is refused (U7, log 10). -/
def Obligations.StepIsNeverStuck : Prop :=
  ∀ s : State,
    (s.cfg.Legal →
      (step s = .refused .reservedCommand ∧ (takeTurn s).1 = some (.request (.command 0b11#2))) ∨
      ((∃ t : State, step s = .next t) ∧ (takeTurn s).1 ≠ some (.request (.command 0b11#2)))) ∧
    (¬ s.cfg.Legal → step s = .refused .illegalConfiguration)

/-! ### Invariants -/

/-- R11, R16 (and R83): INV1, INV2, INV3 hold after a `RESET` and whatever follows it, and every operation keeps
them; the converse of INV2 fails just after a START: in frame with length 0. -/
def Obligations.OperationsKeepBounds : Prop :=
  (∀ (i : Instr) (s t : State), BoundInv s → exec i s = .next t → BoundInv t) ∧
  (∀ (is : List Instr) (s t : State), execAll (.reset :: is) s = .next t → BoundInv t) ∧
  ∀ s : State, ∃ t : State, execAll [.reset, .startFrame] s = .next t ∧ BoundInv t ∧ t.inProgress = true ∧
    t.partialBuffer = []

/-- The invariant of the block holds in the reset state. -/
def Obligations.ResetStateMeetsInvariant : Prop := BlockInv State.reset

/-- Every step keeps the invariant: R5's constraints, INV1 to INV3, `rd_ptr` a slot, no sentinel in `PB` (R44),
queued Messages of `A` argument bytes (R13) whose bytes are payload bytes or zeros. -/
def Obligations.StepKeepsInvariant : Prop :=
  ∀ s t : State, BlockInv s → step s = .next t → BlockInv t

/-- R6: with the invariants no counter or pointer needs more than its width. -/
def Obligations.CountersFitTheirWidths : Prop :=
  ∀ s : State, BlockInv s →
    s.partialLength < 2 ^ s.cfg.lengthWidth ∧ s.len < 2 ^ s.cfg.countWidth ∧ s.capacity < 2 ^ s.cfg.countWidth ∧
    s.rdPtr < s.cfg.N ∧ s.wrPtr < s.cfg.N ∧ s.cfg.N ≤ 2 ^ s.cfg.ptrWidth ∧
    ∀ m ∈ s.queue, messageVector m < 2 ^ s.cfg.messageWidth

/-! ### Events and results -/

/-- R61 (decision D8), R70, R145: for every byte in every state the `RX` completes with exactly one event, whose code is decided
by the fixed test order, and "message available" is raised exactly with code 3; bit 2 of the code marks the three
diagnostics and code 7 is never produced; every other operation reports `EV_NONE`. -/
def Obligations.EventCodesAndCauses : Prop :=
  (∀ (s : State) (b : Byte), s.cfg.Legal → ∃ t : State, exec (decodeByte s.cfg b) s = .next t ∧
    (t.report.event.code = 1#3 ↔ b = s.cfg.startByte) ∧
    (t.report.event.code = 4#3 ↔ b ≠ s.cfg.startByte ∧ s.inProgress = false) ∧
    (t.report.event.code = 5#3 ↔ b = s.cfg.endByte ∧ s.inProgress = true ∧ s.queue.length = s.cfg.N) ∧
    (t.report.event.code = 3#3 ↔ b = s.cfg.endByte ∧ s.inProgress = true ∧ s.queue.length ≠ s.cfg.N) ∧
    (t.report.event.code = 6#3 ↔ b ≠ s.cfg.startByte ∧ b ≠ s.cfg.endByte ∧ s.inProgress = true ∧
      s.partialLength = s.cfg.P) ∧
    (t.report.event.code = 2#3 ↔ b ≠ s.cfg.startByte ∧ b ≠ s.cfg.endByte ∧ s.inProgress = true ∧
      s.partialLength ≠ s.cfg.P) ∧
    t.report.event.code ≠ 0#3 ∧ (t.report.msgAvail = true ↔ t.report.event.code = 3#3)) ∧
  (∀ e : Event, e.code ≠ 7#3 ∧ e.code.getLsbD 2 = e.diagnostic ∧
    (e.diagnostic = true ↔ e = .evDesync ∨ e = .evQFull ∨ e = .evOverflow)) ∧
  (∀ (i : Instr) (s t : State), isRx i = false → exec i s = .next t → t.report.event.code = 0#3)

/-- R84 (decision D7): `push_byte` answers `Some(m)` exactly in case END-ACCEPT, with `m` the Message just enqueued. -/
def Obligations.ResultIsTheEnqueuedMessage : Prop :=
  ∀ (s : State) (b : Byte), ∃ t : State, exec (decodeByte s.cfg b) s = .next t ∧
    (((b ≠ s.cfg.startByte ∧ b = s.cfg.endByte ∧ s.inProgress = true ∧ s.queue.length ≠ s.cfg.N) ∧
      ∃ m : Message, t.report = .received .evAccept (some m) ∧ t.queue = s.queue ++ [m]) ∨
     (¬ (b ≠ s.cfg.startByte ∧ b = s.cfg.endByte ∧ s.inProgress = true ∧ s.queue.length ≠ s.cfg.N) ∧
      t.queue = s.queue ∧ t.report.accepted = none ∧ t.report.event ≠ .evAccept))

/-! ### The queue -/

/-- R99: the queue never exceeds its capacity whatever operations run; `QPUSH` answers false exactly on a full
queue, leaving its entries; `POP` answers `None` exactly on an empty one. -/
def Obligations.QueueBoundLaw : Prop :=
  (∀ (is : List Instr) (s t : State), s.queue.length ≤ s.cfg.N → execAll is s = .next t →
    t.queue.length ≤ t.cfg.N) ∧
  (∀ (s : State) (m : Message), ∃ (t : State) (ok : Bool), exec (.qpush m) s = .next t ∧ t.report = .pushed ok ∧
    (ok = false ↔ s.queue.length = s.cfg.N) ∧ (ok = false → t.queue = s.queue)) ∧
  (∀ s : State, ∃ (t : State) (m : Option Message), exec .pop s = .next t ∧ t.report = .popped m ∧
    (m = none ↔ s.queue.length = 0))

/-- R98: the popped Messages are the first of the pushed ones, in order, those still queued following; a `CLEAR` or
`RESET` deletes what was pushed and not yet popped. -/
def Obligations.FifoLaw : Prop :=
  ∀ (is : List Instr) (s t : State) (h : History),
    runHistory is s { pushed := s.queue, popped := [] } = some (t, h) →
    h.pushed = h.popped ++ t.queue ∧ h.popped <+: h.pushed

/-- R14, R39, R100: an operation changes the queue at its ends only. A Message is added only by an END step, which
builds it from `PB`, or by `QPUSH`; one is taken only by `POP`, which returns it unchanged; `CLEAR` and `RESET`
discard all. -/
def Obligations.QueueChangesOnlyAtItsEnds : Prop :=
  ∀ (i : Instr) (s t : State), i.wf s.cfg = true → exec i s = .next t →
    t.queue = s.queue ∨
    (i = .endFrame ∧ t.queue = s.queue ++ [mkMessage s.cfg s.partialBuffer]) ∨
    (∃ m : Message, i = .qpush m ∧ t.queue = s.queue ++ [m]) ∨
    (∃ m : Message, i = .pop ∧ s.queue = m :: t.queue ∧ t.report = .popped (some m)) ∨
    ((i = .clear ∨ i = .reset) ∧ t.queue = [])

/-- R30, R96: seen by slots, a successful `QPUSH` writes `SLOT[wr_ptr]`, a free slot, and no other; a successful
`POP` returns and frees `SLOT[rd_ptr]` and no other; `CLEAR` and `RESET` free all. -/
def Obligations.SlotsChangeOnlyAtThePointers : Prop :=
  ∀ s : State, s.cfg.Legal → s.rdPtr < s.cfg.N → s.queue.length ≤ s.cfg.N →
    (∀ m : Message, s.queue.length < s.cfg.N → ∃ t : State, exec (.qpush m) s = .next t ∧
      s.slot s.wrPtr = none ∧ t.slot s.wrPtr = some m ∧ ∀ k : Nat, k ≠ s.wrPtr → t.slot k = s.slot k) ∧
    (0 < s.queue.length → ∃ (t : State) (m : Message), exec .pop s = .next t ∧ t.report = .popped (some m) ∧
      s.slot s.rdPtr = some m ∧ t.slot s.rdPtr = none ∧ ∀ k : Nat, k ≠ s.rdPtr → t.slot k = s.slot k) ∧
    (∀ t : State, exec .clear s = .next t ∨ exec .reset s = .next t → ∀ k : Nat, t.slot k = none)

/-- R96, R97: the pointers step modulo `N`, never reach `N`, and `count` steps by one. -/
def Obligations.PointersStepModuloN : Prop :=
  ∀ s : State, s.cfg.Legal → s.rdPtr < s.cfg.N → s.queue.length ≤ s.cfg.N →
    s.wrPtr < s.cfg.N ∧
    (s.wrPtr = s.rdPtr ↔ s.count = 0 ∨ s.count = s.cfg.N) ∧
    (∀ m : Message, s.count < s.cfg.N → ∃ t : State, exec (.qpush m) s = .next t ∧
      t.wrPtr = (if s.wrPtr + 1 = s.cfg.N then 0 else s.wrPtr + 1) ∧ t.rdPtr = s.rdPtr ∧ t.count = s.count + 1) ∧
    (0 < s.count → ∃ t : State, exec .pop s = .next t ∧
      t.rdPtr = (if s.rdPtr + 1 = s.cfg.N then 0 else s.rdPtr + 1) ∧ t.wrPtr = s.wrPtr ∧ t.count + 1 = s.count)

/-- R104, an inference the spec marks as its own: the pointer implementation refines the abstract queue: each of its operations keeps its invariants and
stands for the operation of the block, with the same result. -/
def Obligations.PointerQueueRefinesQueue : Prop :=
  (∀ (s : State) (r : RefQueue), s.cfg.Legal → RefQueue.Represents r s →
    s.count = r.count ∧ s.wrPtr = r.wrPtr ∧
    (∀ k : Nat, ∀ m : Message, s.slot k = some m → r.slots[k]? = some m) ∧
    (∀ m : Message, ∃ t : State, exec (.qpush m) s = .next t ∧
      t.report = .pushed (RefQueue.push s.cfg.N m r).1 ∧ RefQueue.Represents (RefQueue.push s.cfg.N m r).2 t) ∧
    (∃ t : State, exec .pop s = .next t ∧
      t.report = .popped (RefQueue.pop s.cfg.N r).1 ∧ RefQueue.Represents (RefQueue.pop s.cfg.N r).2 t) ∧
    (∃ t : State, exec .clear s = .next t ∧ RefQueue.Represents r.clear t)) ∧
  (∀ (N : Nat) (r : RefQueue) (m : Message), RefQueue.Inv N r →
    (RefQueue.abs N r).length = r.count ∧
    RefQueue.abs N (RefQueue.push N m r).2 =
      (if (RefQueue.abs N r).length < N then RefQueue.abs N r ++ [m] else RefQueue.abs N r) ∧
    (RefQueue.pop N r).1 = (RefQueue.abs N r).head? ∧
    RefQueue.abs N (RefQueue.pop N r).2 = (RefQueue.abs N r).tail ∧
    RefQueue.abs N r.clear = [] ∧
    RefQueue.Inv N (RefQueue.push N m r).2 ∧ RefQueue.Inv N (RefQueue.pop N r).2 ∧ RefQueue.Inv N r.clear)

/-! ### Streams -/

/-- R80 (decision D5): the empty frame is closed like any other, its Message all zeros and the same as that of `Encode(0x00, [])`;
the dispatcher answers it with NAK. That
`process_one` then answers "not changed" is the model's reading (log 16, DEDUCED). -/
def Obligations.EmptyFrameMakesZeroMessage : Prop :=
  ∀ s : State, s.cfg.Legal →
    (s.queue.length < s.cfg.N → ∃ t : State, execAll [.startFrame, .endFrame] s = .next t ∧
      t = { s with
        inProgress := false
        partialBuffer := []
        queue := s.queue ++ [{ code := 0#8, args := zeros s.cfg.A }]
        report := .received .evAccept (some { code := 0#8, args := zeros s.cfg.A }) }) ∧
    (s.queue.length = s.cfg.N → execAll [.startFrame, .endFrame] s = .next
      { s with inProgress := false, partialBuffer := [], report := .received .evQFull none }) ∧
    mkMessage s.cfg [0#8] = { code := 0#8, args := zeros s.cfg.A } ∧
    (∀ (ec : EnvConfig) (e : Env), interpret s.cfg ec { code := 0#8, args := zeros s.cfg.A } e =
      (e.transmit (encodeFrame s.cfg 0x15#8 []), false))

/-- R78, an inference the spec marks as its own (log 21): whatever payload bytes follow once the partial buffer is full, an END closes the frame with its first `P`
payload bytes. -/
def Obligations.EndAfterOverflowKeepsFirstBytes : Prop :=
  ∀ (s : State) (extra : List Byte), s.cfg.Legal → s.inProgress = true → s.partialLength = s.cfg.P →
    (∀ b ∈ extra, Payload s.cfg b) →
    (s.queue.length < s.cfg.N → execAll (extra.map Instr.data ++ [.endFrame]) s = .next
      { s with
        inProgress := false
        partialBuffer := []
        queue := s.queue ++ [mkMessage s.cfg s.partialBuffer]
        report := .received .evAccept (some (mkMessage s.cfg s.partialBuffer)) }) ∧
    (s.queue.length = s.cfg.N → execAll (extra.map Instr.data ++ [.endFrame]) s = .next
      { s with inProgress := false, partialBuffer := [], report := .received .evQFull none })

/-- R85, an inference the spec marks as its own: from any state, after a well-formed frame's bytes (and any STARTs before it), with consumer operations in
between, the END enqueues that frame's Message if a slot is free, and the decoder is idle. -/
def Obligations.FrameDecodesFromAnyState : Prop :=
  ∀ (s : State) (code : Byte) (args : List Byte) (strays : Nat) (ops : List Instr),
    s.cfg.Legal → Payload s.cfg code → (∀ b ∈ args, Payload s.cfg b) → args.length ≤ s.cfg.P - 1 →
    (∀ i ∈ ops, isRx i = true ∨ isConsumerOp i = true) →
    ops.filter isRx ++ [.endFrame] =
      (List.replicate strays s.cfg.startByte ++ encodeFrame s.cfg code args).map (decodeByte s.cfg) →
    ∃ u : State, execAll ops s = .next u ∧
      (u.queue.length < s.cfg.N → ∃ t : State, exec .endFrame u = .next t ∧
        t.report = .received .evAccept (some (mkMessage s.cfg (code :: args))) ∧
        t.queue = u.queue ++ [mkMessage s.cfg (code :: args)] ∧
        t.inProgress = false ∧ t.partialBuffer = [])

/-- R86, an inference the spec marks as its own: what a byte stream decodes to from an idle decoder: the Messages of the pieces that an END closes, as many
as there are free slots. -/
def Obligations.StreamDecodesToItsFrames : Prop :=
  ∀ (s : State) (bytes : List Byte), s.cfg.Legal → s.inProgress = false → s.partialBuffer = [] →
    s.queue.length ≤ s.cfg.N →
    ∃ t : State, feed s.cfg bytes s = .next t ∧
      t.queue = s.queue ++ (streamMessages s.cfg bytes).take (s.cfg.N - s.queue.length) ∧
      t.rdPtr = s.rdPtr

/-- R170, an inference the spec marks as its own: a frame in progress survives a `CLEAR`: with the rest of its bytes it is enqueued at its END, alone. -/
def Obligations.OpenFrameSurvivesClear : Prop :=
  ∀ (s : State) (more : List Byte), s.cfg.Legal → s.inProgress = true → (∀ b ∈ more, Payload s.cfg b) →
    s.partialLength + more.length ≤ s.cfg.P →
    ∃ t : State, execAll (.clear :: more.map Instr.data ++ [.endFrame]) s = .next t ∧
      t.queue = [mkMessage s.cfg (s.partialBuffer ++ more)] ∧ t.inProgress = false ∧ t.partialBuffer = []

/-! ### Agents, hidden state, ports -/

/-- R148, R151, and the constants of R5: no operation changes the constants or what the agents have yet to do; a
consumer operation never changes the Decoder State; a producer operation never removes or alters a queued Message,
nor moves `rd_ptr`. -/
def Obligations.AgentsKeepToTheirState : Prop :=
  ∀ (i : Instr) (s t : State), exec i s = .next t →
    (t.cfg = s.cfg ∧ t.rxIn = s.rxIn ∧ t.cmdIn = s.cmdIn ∧ t.rstIn = s.rstIn ∧ t.turns = s.turns) ∧
    (i.agent = .consumer → t.inProgress = s.inProgress ∧ t.partialBuffer = s.partialBuffer) ∧
    (i.agent = .producer → s.queue <+: t.queue ∧ t.rdPtr = s.rdPtr)

/-- R30, R88: `PB` is written only at `partial_length`, by a DATA operation, and otherwise kept or emptied whole. -/
def Obligations.PartialBufferChangesOnlyAtItsEnd : Prop :=
  ∀ (i : Instr) (s t : State), i.wf s.cfg = true → exec i s = .next t →
    (∀ k : Nat, t.pb k = s.pb k) ∨
    ((i = .startFrame ∨ i = .endFrame ∨ i = .reset) ∧ ∀ k : Nat, t.pb k = none) ∨
    (∃ b : Byte, i = .data b ∧ t.partialLength = s.partialLength + 1 ∧ t.pb s.partialLength = some b ∧
      ∀ k : Nat, k ≠ s.partialLength → t.pb k = s.pb k)

/-- R21, R23: from two states that differ at most in `rd_ptr` and in the last report, every run reports the same:
neither can be observed, now or later. -/
def Obligations.HiddenStateIsUnobservable : Prop :=
  (∀ (k : Nat) (s t : State), SameArchitecture s t → stepReports k s = stepReports k t) ∧
  (∀ s t s' : State, SameArchitecture s t → step s = .next s' →
    ∃ t' : State, step t = .next t' ∧ SameArchitecture s' t')

/-- R41 (decision D10): a byte and a command of one cycle commute but in three cases, and in those both orders are as the rule
says. -/
def Obligations.SameCycleOrders : Prop :=
  ∀ (i : PortsIn) (s : State), s.cfg.Legal → s.queue.length ≤ s.cfg.N → i.rst = false → i.cmd ≠ 0b11#2 →
    (¬ OrderMatters i s → ∃ r : State × PortsOut, cycle .rxFirst i s = .next r ∧ cycle .cmdFirst i s = .next r) ∧
    (i.rxValid = true → i.rxByte = s.cfg.endByte → s.inProgress = true →
      (∀ (m : Message) (rest : List Message), i.cmd = 0b01#2 → s.queue = m :: rest → s.queue.length = s.cfg.N →
        ∃ (t u : State) (o p : PortsOut), cycle .rxFirst i s = .next (t, o) ∧ cycle .cmdFirst i s = .next (u, p) ∧
          o.evCode = 5#3 ∧ t.queue = rest ∧ p.evCode = 3#3 ∧
          u.queue = rest ++ [mkMessage s.cfg s.partialBuffer] ∧
          o.popMsg = some (messageVector m) ∧ p.popMsg = some (messageVector m)) ∧
      (i.cmd = 0b01#2 → s.queue = [] →
        ∃ (t u : State) (o p : PortsOut), cycle .rxFirst i s = .next (t, o) ∧ cycle .cmdFirst i s = .next (u, p) ∧
          o.popMsg = some (messageVector (mkMessage s.cfg s.partialBuffer)) ∧ t.queue = [] ∧
          p.popValid = false ∧ u.queue = [mkMessage s.cfg s.partialBuffer]) ∧
      (i.cmd = 0b10#2 →
        ∃ (t u : State) (o p : PortsOut), cycle .rxFirst i s = .next (t, o) ∧ cycle .cmdFirst i s = .next (u, p) ∧
          t.queue = [] ∧ u.queue = [mkMessage s.cfg s.partialBuffer] ∧ p.evCode = 3#3))

/-- R162 (decision D24): with `rst` at 1 the cycle is `RESET` alone, whatever the other inputs. -/
def Obligations.ResetOverridesCycle : Prop :=
  ∀ (order : SameCycleOrder) (i : PortsIn) (s : State), i.rst = true →
    ∃ o : PortsOut, cycle order i s =
      .next ({ s with inProgress := false, partialBuffer := [], queue := [], rdPtr := 0, report := .nothing }, o) ∧
      o.evCode = 0#3 ∧ o.msgAvail = false ∧ o.popValid = false

/-- R67, R144: the outputs of a cycle in either order: `rx_ready` is 1; `msg_avail` is 1 exactly with `EV_ACCEPT`,
and then `ev_msg` is there; `EV_NONE` without a byte; `pop_valid` only with `POP`; the status outputs are those of
the state before the cycle. -/
def Obligations.CycleOutputs : Prop :=
  ∀ (order : SameCycleOrder) (i : PortsIn) (s t : State) (o : PortsOut), cycle order i s = .next (t, o) →
    o.rxReady = true ∧ (o.msgAvail = true ↔ o.evCode = 3#3) ∧ (o.msgAvail = true ↔ o.evMsg.isSome = true) ∧
    (i.rxValid = false ∨ i.rst = true → o.evCode = 0#3) ∧ (i.rxValid = true → i.rst = false → o.evCode ≠ 0#3) ∧
    (o.popValid = true ↔ o.popMsg.isSome = true) ∧ (i.cmd ≠ 0b01#2 → o.popValid = false) ∧
    o.len = s.queue.length ∧ o.capacity = s.cfg.N ∧ (o.empty = true ↔ o.len = 0) ∧
    (o.full = true ↔ o.len = o.capacity)

/-! ### The environment -/

/-- R115, R116, R117, R120, R121: what the dispatcher does with SYN, ACK, FRIEND and an unrecognised code. That
FRIEND and an unrecognised code answer "not changed" is the model's reading (log 16). -/
def Obligations.DispatcherControlCodes : Prop :=
  ∀ (c : Config) (ec : EnvConfig) (e : Env) (args : List Byte),
    interpret c ec { code := 0x16#8, args := args } e =
      ({ e with log := e.log ++ [.transmit [c.startByte, 0x06#8, c.endByte]] }, false) ∧
    (e.synackComplete = false → (interpret c ec { code := 0x06#8, args := args } e).1 =
      { e with synackComplete := true, log := e.log ++ [.transmit [c.startByte, 0x08#8, c.endByte]] }) ∧
    (e.synackComplete = true → interpret c ec { code := 0x06#8, args := args } e = (e, false)) ∧
    interpret c ec { code := 0x09#8, args := args } e =
      ({ e with log := e.log ++ [.transmit [c.startByte, 0x06#8, c.endByte]] }, false) ∧
    (∀ code : Byte,
      code ∉ [0x16#8, 0x06#8, 0x15#8, 0x04#8, 0x05#8, 0x0D#8, 0x07#8, 0x08#8, 0x09#8, 0x0A#8, 0x0B#8, 0x0C#8] →
      interpret c ec { code := code, args := args } e =
        ({ e with log := e.log ++ [.transmit [c.startByte, 0x15#8, c.endByte]] }, false))

/-- R119: MODE is acknowledged first and then sets the mode from `args[0]`, which the spec marks as its own
inference. A Message without arguments (`A` = 0) sets the open mode of the model's choice (log 23). -/
def Obligations.DispatcherModeMapping : Prop :=
  (∀ (c : Config) (ec : EnvConfig) (e : Env) (a : Byte) (rest : List Byte),
    ∃ m : Mode, interpret c ec { code := 0x0A#8, args := a :: rest } e =
        ({ e with
            ui := { e.ui with mode := m }
            log := e.log ++ [.transmit [c.startByte, 0x06#8, c.endByte], .setMode m] }, true) ∧
      (a = 0x05#8 → m = .auto) ∧ (a = 0x06#8 → m = .ai) ∧ (a ≠ 0x05#8 → a ≠ 0x06#8 → m = .manual)) ∧
  ∀ (c : Config) (ec : EnvConfig) (e : Env),
    interpret c ec { code := 0x0A#8, args := [] } e =
      ({ e with
          ui := { e.ui with mode := ec.modeWithoutArgument }
          log := e.log ++ [.transmit [c.startByte, 0x06#8, c.endByte], .setMode ec.modeWithoutArgument] }, true)

/-- R118, R122: a UI field command is acknowledged first; then its field, and no other, holds the argument bytes up
to the first zero byte or its capacity, whichever comes first. That every field holds bytes is the model's reading
(log 16). -/
def Obligations.DispatcherFieldCopy : Prop :=
  ∀ (c : Config) (ec : EnvConfig) (e : Env) (code : Byte) (f : UiField) (args : List Byte),
    (code, f) ∈ [(0x04#8, .face), (0x05#8, .hostname), (0x0D#8, .channel), (0x07#8, .apStat), (0x08#8, .uptime),
      (0x0B#8, .handshakes), (0x0C#8, .status)] →
    ∃ v : List Byte,
      interpret c ec { code := code, args := args } e =
        ({ e with
            ui := e.ui.set f v
            log := e.log ++ [.transmit [c.startByte, 0x06#8, c.endByte], .setField f v] }, true) ∧
      (e.ui.set f v).get f = v ∧ (∀ g : UiField, g ≠ f → (e.ui.set f v).get g = e.ui.get g) ∧
      v <+: args ∧ v.length ≤ ec.cap f ∧ 0#8 ∉ v ∧
      (v.length < ec.cap f → v.length < args.length → args[v.length]? = some 0#8)

/-- R125: from session start, whatever Messages are interpreted, exactly one SYN has been sent, and one UI-refresh
exactly when an ACK was among them, which is when the handshake is complete. The code 0x08 of the refresh is the
spec's pairing by name (N18, log 16). -/
def Obligations.HandshakeBootstrap : Prop :=
  ∀ (c : Config) (ec : EnvConfig) (ui : UiState) (ms : List Message),
    (interpretAll c ec ms (sessionStart c ui)).sent.count [c.startByte, 0x16#8, c.endByte] = 1 ∧
    (interpretAll c ec ms (sessionStart c ui)).sent.count [c.startByte, 0x08#8, c.endByte] =
      (if ∃ m ∈ ms, m.code = 0x06#8 then 1 else 0) ∧
    ((interpretAll c ec ms (sessionStart c ui)).synackComplete = true ↔ ∃ m ∈ ms, m.code = 0x06#8)

/-- R113, R114: one `process_one` is one `POP`, of which nothing more comes if the queue is empty (the answer is
then open, N13); a drain that nothing interrupts empties the queue, interpreting its Messages in FIFO order. -/
def Obligations.DispatcherDrainsInOrder : Prop :=
  ∀ (ec : EnvConfig) (s : State) (e : Env),
    (s.queue = [] → ∃ t : State, exec .pop s = .next t ∧ processOne ec s e = .next (t, e, ec.emptyChanges)) ∧
    (∀ (m : Message) (rest : List Message), s.queue = m :: rest →
      ∃ t : State, exec .pop s = .next t ∧ processOne ec s e = .next (t, interpret s.cfg ec m e)) ∧
    ∃ t : State, drain ec (s.queue.length + 1) s e =
        .next (t, interpretAll s.cfg ec s.queue e) ∧
      t.queue = [] ∧ t.inProgress = s.inProgress ∧ t.partialBuffer = s.partialBuffer

/-- R62: each of the four reply frames, fed to a decoder with the documented constants and a free slot, is accepted
as a Message of that code with all-zero arguments. -/
def Obligations.ReplyFramesAreAccepted : Prop :=
  ∀ (s : State) (code : Byte), s.cfg = Config.documented → s.queue.length < s.cfg.N →
    code ∈ [0x06#8, 0x15#8, 0x16#8, 0x08#8] →
    encodeFrame s.cfg code [] = [0x02#8, code, 0x03#8] ∧
    ∃ t : State, feed s.cfg [0x02#8, code, 0x03#8] s = .next t ∧
      t.queue = s.queue ++ [{ code := code, args := zeros 199 }] ∧
      t.report = .received .evAccept (some { code := code, args := zeros 199 })

/-! ### The dispatcher's schedule beside the decoder's -/

/-- R112, R113: a byte is one `RX`, whose "message available" wakes the dispatcher; a waiting dispatcher does nothing;
an awake one takes one `POP`, interprets what it returns, and returns to wait exactly when it returns `None`. The wake
flag and one `process_one` a turn are the model's choice (log 24). -/
def Obligations.SignalWakesDispatcher : Prop :=
  ∀ (ec : EnvConfig) (x : Session),
    (∀ b : Byte, ∃ y : Session, sessionStep ec (.byte b) x = .next y ∧
      exec (decodeByte x.block.cfg b) x.block = .next y.block ∧ y.env = x.env ∧
      (y.awake = true ↔ x.awake = true ∨ y.block.report.event = .evAccept)) ∧
    (x.awake = false → sessionStep ec .dispatcher x = .next { x with block := { x.block with report := .nothing } }) ∧
    (x.awake = true → ∃ y : Session, sessionStep ec .dispatcher x = .next y ∧ exec .pop x.block = .next y.block ∧
      (x.block.queue = [] → y.awake = false ∧ y.env = x.env) ∧
      ∀ (m : Message) (rest : List Message), x.block.queue = m :: rest →
        y.awake = true ∧ y.env = (interpret x.block.cfg ec m x.env).1)

/-- R125, R130, with N19 open: a session start sends SYN and clears `synack_complete`; whether it resets the block is
the open choice. That it takes the UI State's contents from the turn is the model's choice (log 25). It and a `CLEAR` or `RESET` leave the dispatcher awake or waiting as it was,
which is the model's choice (log 24). -/
def Obligations.SessionStartSendsSyn : Prop :=
  ∀ (ec : EnvConfig) (x : Session),
    (∀ ui : UiState, ∃ t : State,
      sessionStep ec (.start ui) x =
        .next { x with
          block := t
          env :=
            { ui := ui
              synackComplete := false
              log := x.env.log ++ [.transmit [x.block.cfg.startByte, 0x16#8, x.block.cfg.endByte]] } } ∧
      (ec.sessionResetsBlock = true → exec .reset x.block = .next t) ∧
      (ec.sessionResetsBlock = false → t = { x.block with report := .nothing })) ∧
    (∃ t : State, exec .clear x.block = .next t ∧ sessionStep ec .clear x = .next { x with block := t }) ∧
    (∃ t : State, exec .reset x.block = .next t ∧ sessionStep ec .reset x = .next { x with block := t })

/-- From R113 and R40 with the model's wake flag, while the dispatcher waits no Message is in the queue: every turn, of
whatever agent, keeps it so. That a signal is never lost is the model's choice (log 24, unsafe for this statement): R144
leaves the waking to an external scheduling primitive. -/
def Obligations.NoMessageIsStranded : Prop :=
  (∀ (ec : EnvConfig) (turn : SessionTurn) (x y : Session), NoneStranded x → sessionStep ec turn x = .next y →
    NoneStranded y) ∧
  ∀ (ec : EnvConfig) (x : Session), x.awake = true →
    ∃ y : Session, runSession ec (List.replicate (x.block.queue.length + 1) .dispatcher) x = .next y ∧
      y.awake = false ∧ y.block.queue = [] ∧ y.env = interpretAll x.block.cfg ec x.block.queue x.env

/-- R113, R38: however the dispatcher's turns fall between the bytes, the schedule completes, and the Messages
interpreted are the first of those that were queued or accepted, each once and in order, the rest still queued. The
turns and the wake flag are the model's choice (log 24). -/
def Obligations.DispatcherInterpretsInArrivalOrder : Prop :=
  ∀ (ec : EnvConfig) (turns : List SessionTurn) (x : Session), (∀ turn ∈ turns, turn.isSchedule = true) →
    ∃ (y : Session) (done : List Message), runSession ec turns x = .next y ∧
      x.block.queue ++ sessionAccepted ec turns x = done ++ y.block.queue ∧
      y.env = interpretAll x.block.cfg ec done x.env
end

