-- ==== Sys2Proof/Laws/Decode.lean ====
section
/-! SUPPORT. What the byte decoder answers for each class of byte. -/

namespace Sys2Proof.Laws

theorem decodeByte_start (c : Config) : decodeByte c c.startByte = .startFrame := by
  simp [decodeByte, byteClass]

theorem decodeByte_end {c : Config} (h : c.startByte ≠ c.endByte) : decodeByte c c.endByte = .endFrame := by
  simp [decodeByte, byteClass, Ne.symm h]

theorem decodeByte_data {c : Config} {b : Byte} (hs : b ≠ c.startByte) (he : b ≠ c.endByte) :
    decodeByte c b = .data b := by
  simp [decodeByte, byteClass, hs, he]

/-- All that the byte decoder can answer. -/
theorem decodeByte_cases (c : Config) (b : Byte) :
    (b = c.startByte ∧ decodeByte c b = .startFrame) ∨
      (b ≠ c.startByte ∧ b = c.endByte ∧ decodeByte c b = .endFrame) ∨
      (b ≠ c.startByte ∧ b ≠ c.endByte ∧ decodeByte c b = .data b) := by
  by_cases hs : b = c.startByte
  · exact .inl ⟨hs, by subst hs; exact decodeByte_start c⟩
  · by_cases he : b = c.endByte
    · exact .inr (.inl ⟨hs, he, by subst he; exact decodeByte_end (Ne.symm hs)⟩)
    · exact .inr (.inr ⟨hs, he, decodeByte_data hs he⟩)

end Sys2Proof.Laws
end

