-- ==== Sys2Proof/Laws/Operands.lean ====
section
/-! SUPPORT. Message assembly and the reads of the two stores. -/

namespace Sys2Proof.Laws

open Sys2Proof.Machine

@[simp] theorem mkMessage_code (c : Config) (buf : List Byte) : (mkMessage c buf).code = buf[0]?.getD 0#8 := rfl

@[simp] theorem mkMessage_args_length (c : Config) (buf : List Byte) : (mkMessage c buf).args.length = c.A := by
  simp [mkMessage]

theorem mkMessage_arg (c : Config) (buf : List Byte) (i : Nat) (h : i < c.A) :
    (mkMessage c buf).args[i]? = some (buf[i + 1]?.getD 0#8) := by
  simp [mkMessage, h]

/-- Every byte of an assembled Message is a byte of the buffer or a padding zero. -/
theorem mem_mkMessage_bytes {c : Config} {buf : List Byte} {b : Byte} (h : b ∈ (mkMessage c buf).bytes) :
    b = 0#8 ∨ b ∈ buf := by
  have key : ∀ i : Nat, buf[i]?.getD 0#8 = 0#8 ∨ buf[i]?.getD 0#8 ∈ buf := by
    intro i
    cases hi : buf[i]? with
    | none => exact .inl rfl
    | some x => exact .inr (List.mem_of_getElem? hi)
  simp only [Message.bytes, mkMessage, List.mem_cons, List.mem_map] at h
  obtain rfl | ⟨i, -, rfl⟩ := h
  · exact key 0
  · exact key (i + 1)

theorem bytesValue_lt (bs : List Byte) : bytesValue bs < 2 ^ (8 * bs.length) := by
  induction bs with
  | nil => simp [bytesValue]
  | cons b bs ih =>
    have hb : b.toNat < 256 := b.isLt
    have hp : 2 ^ (8 * (b :: bs).length) = 256 * 2 ^ (8 * bs.length) := by
      rw [List.length_cons, Nat.mul_add, Nat.pow_add]; omega
    rw [hp, bytesValue]
    omega

theorem slot_of_lt {s : State} {k : Nat} (h : k < s.cfg.N) :
    s.slot k = s.queue[(k + s.cfg.N - s.rdPtr) % s.cfg.N]? := if_pos h

theorem slot_of_not_lt {s : State} {k : Nat} (h : ¬ k < s.cfg.N) : s.slot k = none := if_neg h

end Sys2Proof.Laws
end

