-- ==== Sys2Proof/Laws/State.lean ====
section
/-! SUPPORT. One lemma per field of `State` per named update of Machine/Ops.lean. -/

namespace Sys2Proof.Laws

open Sys2Proof.Machine

variable (s : State)

@[simp] theorem emit_cfg (r : Report) : (s.emit r).cfg = s.cfg := rfl
@[simp] theorem emit_inProgress (r : Report) : (s.emit r).inProgress = s.inProgress := rfl
@[simp] theorem emit_partialBuffer (r : Report) : (s.emit r).partialBuffer = s.partialBuffer := rfl
@[simp] theorem emit_queue (r : Report) : (s.emit r).queue = s.queue := rfl
@[simp] theorem emit_rdPtr (r : Report) : (s.emit r).rdPtr = s.rdPtr := rfl
@[simp] theorem emit_report (r : Report) : (s.emit r).report = r := rfl
@[simp] theorem emit_rxIn (r : Report) : (s.emit r).rxIn = s.rxIn := rfl
@[simp] theorem emit_cmdIn (r : Report) : (s.emit r).cmdIn = s.cmdIn := rfl
@[simp] theorem emit_rstIn (r : Report) : (s.emit r).rstIn = s.rstIn := rfl
@[simp] theorem emit_turns (r : Report) : (s.emit r).turns = s.turns := rfl

@[simp] theorem idle_cfg : (s.idle).cfg = s.cfg := rfl
@[simp] theorem idle_inProgress : (s.idle).inProgress = s.inProgress := rfl
@[simp] theorem idle_partialBuffer : (s.idle).partialBuffer = s.partialBuffer := rfl
@[simp] theorem idle_queue : (s.idle).queue = s.queue := rfl
@[simp] theorem idle_rdPtr : (s.idle).rdPtr = s.rdPtr := rfl
@[simp] theorem idle_report : (s.idle).report = .nothing := rfl
@[simp] theorem idle_rxIn : (s.idle).rxIn = s.rxIn := rfl
@[simp] theorem idle_cmdIn : (s.idle).cmdIn = s.cmdIn := rfl
@[simp] theorem idle_rstIn : (s.idle).rstIn = s.rstIn := rfl
@[simp] theorem idle_turns : (s.idle).turns = s.turns := rfl

@[simp] theorem openFrame_cfg : (s.openFrame).cfg = s.cfg := rfl
@[simp] theorem openFrame_inProgress : (s.openFrame).inProgress = true := rfl
@[simp] theorem openFrame_partialBuffer : (s.openFrame).partialBuffer = [] := rfl
@[simp] theorem openFrame_queue : (s.openFrame).queue = s.queue := rfl
@[simp] theorem openFrame_rdPtr : (s.openFrame).rdPtr = s.rdPtr := rfl
@[simp] theorem openFrame_report : (s.openFrame).report = s.report := rfl
@[simp] theorem openFrame_rxIn : (s.openFrame).rxIn = s.rxIn := rfl
@[simp] theorem openFrame_cmdIn : (s.openFrame).cmdIn = s.cmdIn := rfl
@[simp] theorem openFrame_rstIn : (s.openFrame).rstIn = s.rstIn := rfl
@[simp] theorem openFrame_turns : (s.openFrame).turns = s.turns := rfl

@[simp] theorem closeFrame_cfg : (s.closeFrame).cfg = s.cfg := rfl
@[simp] theorem closeFrame_inProgress : (s.closeFrame).inProgress = false := rfl
@[simp] theorem closeFrame_partialBuffer : (s.closeFrame).partialBuffer = [] := rfl
@[simp] theorem closeFrame_queue : (s.closeFrame).queue = s.queue := rfl
@[simp] theorem closeFrame_rdPtr : (s.closeFrame).rdPtr = s.rdPtr := rfl
@[simp] theorem closeFrame_report : (s.closeFrame).report = s.report := rfl
@[simp] theorem closeFrame_rxIn : (s.closeFrame).rxIn = s.rxIn := rfl
@[simp] theorem closeFrame_cmdIn : (s.closeFrame).cmdIn = s.cmdIn := rfl
@[simp] theorem closeFrame_rstIn : (s.closeFrame).rstIn = s.rstIn := rfl
@[simp] theorem closeFrame_turns : (s.closeFrame).turns = s.turns := rfl

@[simp] theorem appendByte_cfg (b : Byte) : (s.appendByte b).cfg = s.cfg := rfl
@[simp] theorem appendByte_inProgress (b : Byte) : (s.appendByte b).inProgress = s.inProgress := rfl
@[simp] theorem appendByte_partialBuffer (b : Byte) : (s.appendByte b).partialBuffer = s.partialBuffer ++ [b] := rfl
@[simp] theorem appendByte_queue (b : Byte) : (s.appendByte b).queue = s.queue := rfl
@[simp] theorem appendByte_rdPtr (b : Byte) : (s.appendByte b).rdPtr = s.rdPtr := rfl
@[simp] theorem appendByte_report (b : Byte) : (s.appendByte b).report = s.report := rfl
@[simp] theorem appendByte_rxIn (b : Byte) : (s.appendByte b).rxIn = s.rxIn := rfl
@[simp] theorem appendByte_cmdIn (b : Byte) : (s.appendByte b).cmdIn = s.cmdIn := rfl
@[simp] theorem appendByte_rstIn (b : Byte) : (s.appendByte b).rstIn = s.rstIn := rfl
@[simp] theorem appendByte_turns (b : Byte) : (s.appendByte b).turns = s.turns := rfl

@[simp] theorem qclear_cfg : (s.qclear).cfg = s.cfg := rfl
@[simp] theorem qclear_inProgress : (s.qclear).inProgress = s.inProgress := rfl
@[simp] theorem qclear_partialBuffer : (s.qclear).partialBuffer = s.partialBuffer := rfl
@[simp] theorem qclear_queue : (s.qclear).queue = [] := rfl
@[simp] theorem qclear_rdPtr : (s.qclear).rdPtr = 0 := rfl
@[simp] theorem qclear_report : (s.qclear).report = s.report := rfl
@[simp] theorem qclear_rxIn : (s.qclear).rxIn = s.rxIn := rfl
@[simp] theorem qclear_cmdIn : (s.qclear).cmdIn = s.cmdIn := rfl
@[simp] theorem qclear_rstIn : (s.qclear).rstIn = s.rstIn := rfl
@[simp] theorem qclear_turns : (s.qclear).turns = s.turns := rfl

@[simp] theorem resetBlock_cfg : (s.resetBlock).cfg = s.cfg := rfl
@[simp] theorem resetBlock_inProgress : (s.resetBlock).inProgress = false := rfl
@[simp] theorem resetBlock_partialBuffer : (s.resetBlock).partialBuffer = [] := rfl
@[simp] theorem resetBlock_queue : (s.resetBlock).queue = [] := rfl
@[simp] theorem resetBlock_rdPtr : (s.resetBlock).rdPtr = 0 := rfl
@[simp] theorem resetBlock_report : (s.resetBlock).report = s.report := rfl
@[simp] theorem resetBlock_rxIn : (s.resetBlock).rxIn = s.rxIn := rfl
@[simp] theorem resetBlock_cmdIn : (s.resetBlock).cmdIn = s.cmdIn := rfl
@[simp] theorem resetBlock_rstIn : (s.resetBlock).rstIn = s.rstIn := rfl
@[simp] theorem resetBlock_turns : (s.resetBlock).turns = s.turns := rfl

end Sys2Proof.Laws
end

