-- ==== Sys2Proof/Laws/Queue.lean ====
section
/-! SUPPORT. What `QPUSH` and `POP` can do, once each. -/

namespace Sys2Proof.Laws

open Sys2Proof.Machine

theorem qpush_full {s : State} (m : Message) (h : s.queue.length = s.cfg.N) : s.qpush m = (false, s) := by
  simp [State.qpush, h]

theorem qpush_free {s : State} (m : Message) (h : s.queue.length ≠ s.cfg.N) :
    s.qpush m = (true, { s with queue := s.queue ++ [m] }) := by
  simp [State.qpush, h]

/-- All that `QPUSH` can do. -/
theorem qpush_cases (s : State) (m : Message) :
    (s.queue.length = s.cfg.N ∧ s.qpush m = (false, s)) ∨
      (s.queue.length ≠ s.cfg.N ∧ s.qpush m = (true, { s with queue := s.queue ++ [m] })) := by
  by_cases h : s.queue.length = s.cfg.N
  · exact .inl ⟨h, qpush_full m h⟩
  · exact .inr ⟨h, qpush_free m h⟩

theorem qpop_empty {s : State} (h : s.queue = []) : s.qpop = (none, s) := by
  simp [State.qpop, h]

theorem qpop_cons {s : State} {m : Message} {rest : List Message} (h : s.queue = m :: rest) :
    s.qpop = (some m, { s with queue := rest, rdPtr := nextPtr s.cfg s.rdPtr }) := by
  simp [State.qpop, h]

/-- All that `POP` can do. -/
theorem qpop_cases (s : State) :
    (s.queue = [] ∧ s.qpop = (none, s)) ∨
      ∃ m rest, s.queue = m :: rest ∧
        s.qpop = (some m, { s with queue := rest, rdPtr := nextPtr s.cfg s.rdPtr }) := by
  cases h : s.queue with
  | nil => exact .inl ⟨rfl, qpop_empty h⟩
  | cons m rest => exact .inr ⟨m, rest, rfl, qpop_cons h⟩

end Sys2Proof.Laws
end

