-- ==== Sys2Proof/Laws/FrameDecoder.lean ====
section
/-! SUPPORT. What `RX` can do, once: the six cases of spec/40_frame_decoder.md R70 with their conditions. -/

namespace Sys2Proof.Laws

open Sys2Proof.Machine

theorem rx_start {s : State} {b : Byte} (h : b = s.cfg.startByte) : rx b s = rxStart s := by
  simp [rx, h]

theorem rx_desync {s : State} {b : Byte} (h : b ≠ s.cfg.startByte) (hi : s.inProgress = false) :
    rx b s = rxDesync s := by
  simp [rx, h, hi]

theorem rx_end {s : State} {b : Byte} (h : b ≠ s.cfg.startByte) (hi : s.inProgress = true)
    (he : b = s.cfg.endByte) : rx b s = rxEnd s := by
  subst he
  simp [rx, h, hi]

theorem rx_data {s : State} {b : Byte} (h : b ≠ s.cfg.startByte) (hi : s.inProgress = true)
    (he : b ≠ s.cfg.endByte) : rx b s = rxData s b := by
  simp [rx, h, hi, he]

/-- R75: the END step on a full queue. -/
theorem rxEnd_full {s : State} (h : s.queue.length = s.cfg.N) :
    rxEnd s = s.closeFrame.emit (.received .evQFull none) := by
  simp [rxEnd, qpush_full _ h]

/-- R74: the END step with a free slot. -/
theorem rxEnd_free {s : State} (h : s.queue.length ≠ s.cfg.N) :
    rxEnd s =
      ({ s with queue := s.queue ++ [mkMessage s.cfg s.partialBuffer] } : State).closeFrame.emit
        (.received .evAccept (some (mkMessage s.cfg s.partialBuffer))) := by
  simp [rxEnd, qpush_free _ h]

/-- All that `RX b` can do. -/
theorem rx_cases (b : Byte) (s : State) :
    (b = s.cfg.startByte ∧ rx b s = s.openFrame.emit (.received .evStart none)) ∨
    (b ≠ s.cfg.startByte ∧ s.inProgress = false ∧ rx b s = s.emit (.received .evDesync none)) ∨
    (b ≠ s.cfg.startByte ∧ s.inProgress = true ∧ b = s.cfg.endByte ∧ s.queue.length ≠ s.cfg.N ∧
      rx b s =
        ({ s with queue := s.queue ++ [mkMessage s.cfg s.partialBuffer] } : State).closeFrame.emit
          (.received .evAccept (some (mkMessage s.cfg s.partialBuffer)))) ∨
    (b ≠ s.cfg.startByte ∧ s.inProgress = true ∧ b = s.cfg.endByte ∧ s.queue.length = s.cfg.N ∧
      rx b s = s.closeFrame.emit (.received .evQFull none)) ∨
    (b ≠ s.cfg.startByte ∧ s.inProgress = true ∧ b ≠ s.cfg.endByte ∧ s.partialBuffer.length ≠ s.cfg.P ∧
      rx b s = (s.appendByte b).emit (.received .evAppend none)) ∨
    (b ≠ s.cfg.startByte ∧ s.inProgress = true ∧ b ≠ s.cfg.endByte ∧ s.partialBuffer.length = s.cfg.P ∧
      rx b s = s.emit (.received .evOverflow none)) := by
  by_cases hs : b = s.cfg.startByte
  · exact .inl ⟨hs, rx_start hs⟩
  refine .inr ?_
  cases hi : s.inProgress with
  | false => exact .inl ⟨hs, rfl, rx_desync hs hi⟩
  | true =>
    refine .inr ?_
    by_cases he : b = s.cfg.endByte
    · by_cases hq : s.queue.length = s.cfg.N
      · exact .inr (.inl ⟨hs, rfl, he, hq, (rx_end hs hi he).trans (rxEnd_full hq)⟩)
      · exact .inl ⟨hs, rfl, he, hq, (rx_end hs hi he).trans (rxEnd_free hq)⟩
    · refine .inr (.inr ?_)
      have hd := rx_data hs hi he
      by_cases hl : s.partialBuffer.length = s.cfg.P
      · exact .inr ⟨hs, rfl, he, hl, by simp [hd, rxData, State.partialLength, hl]⟩
      · exact .inl ⟨hs, rfl, he, hl, by simp [hd, rxData, State.partialLength, hl]⟩

end Sys2Proof.Laws
end

