-- ==== Sys2Proof/Laws/Exec.lean ====
section
/-! SUPPORT. The meanings in terms of the shared operations, and what running a decoded byte is. -/

namespace Sys2Proof.Laws

open Sys2Proof.Machine

/-- The operation a byte decodes to is the `RX` of that byte. -/
theorem exec_decodeByte (s : State) (b : Byte) : exec (decodeByte s.cfg b) s = .next (rx b s) := by
  obtain ⟨rfl, h⟩ | ⟨-, rfl, h⟩ | ⟨-, -, h⟩ := decodeByte_cases s.cfg b <;> rw [h] <;> rfl

theorem exec_pop_empty {s : State} (h : s.queue = []) : exec .pop s = .next (s.emit (.popped none)) := by
  simp [exec, execPop, qpop_empty h]

theorem exec_pop_cons {s : State} {m : Message} {rest : List Message} (h : s.queue = m :: rest) :
    exec .pop s =
      .next (({ s with queue := rest, rdPtr := nextPtr s.cfg s.rdPtr } : State).emit (.popped (some m))) := by
  simp [exec, execPop, qpop_cons h]

theorem exec_qpush_full {s : State} (m : Message) (h : s.queue.length = s.cfg.N) :
    exec (.qpush m) s = .next (s.emit (.pushed false)) := by
  simp [exec, execQpush, qpush_full m h]

theorem exec_qpush_free {s : State} (m : Message) (h : s.queue.length ≠ s.cfg.N) :
    exec (.qpush m) s = .next (({ s with queue := s.queue ++ [m] } : State).emit (.pushed true)) := by
  simp [exec, execQpush, qpush_free m h]

/-- `andThen` answers a next state exactly when both parts do. -/
theorem andThen_next {σ τ : Type} {o : Host.Outcome σ Fault Refusal} {f : σ → Host.Outcome τ Fault Refusal} {u : τ} :
    andThen o f = .next u ↔ ∃ t, o = .next t ∧ f t = .next u := by
  cases o <;> simp [andThen]

end Sys2Proof.Laws
end

