-- ==== Sys2Proof/Laws/Fetch.lean ====
section
/-! SUPPORT. Taking a turn moves only what the agents have yet to do. -/

namespace Sys2Proof.Laws

open Sys2Proof.Machine

/-- A turn changes at most the pending words and the turns. -/
theorem takeTurn_frame (s : State) :
    (takeTurn s).2 =
      { s with
        rxIn := (takeTurn s).2.rxIn
        cmdIn := (takeTurn s).2.cmdIn
        rstIn := (takeTurn s).2.rstIn
        turns := (takeTurn s).2.turns } := by
  unfold takeTurn
  split
  · rfl
  · unfold takeFrom
    split <;> split <;> rfl

/-- The word put before all others is the one the next turn delivers, to the state it was put before. -/
theorem takeTurn_pushWord (s : State) (w : PortWord) : takeTurn (s.pushWord w) = (some w, s) := by
  cases w <;> rfl

@[simp] theorem pushWord_cfg (s : State) (w : PortWord) : (s.pushWord w).cfg = s.cfg := by
  cases w <;> rfl

/-- A step of a legal configuration is its turn. -/
theorem step_legal {s : State} (h : s.cfg.Legal) : step s = execTurn (takeTurn s).1 (takeTurn s).2 :=
  if_pos h

theorem step_illegal {s : State} (h : ¬ s.cfg.Legal) : step s = .refused .illegalConfiguration :=
  if_neg h

/-- The next step runs a word that was put before all others. -/
theorem step_pushWord {s : State} (h : s.cfg.Legal) (w : PortWord) : step (s.pushWord w) = execWord w s := by
  rw [step_legal (by simpa using h), takeTurn_pushWord]
  rfl

end Sys2Proof.Laws
end

