-- ==== Sys2Proof/Laws/PerInstr.lean ====
section
/-! SUPPORT. What holds of every operation as syntax: family `AgentPort`, the word an operation is encoded as
arrives at the port of the agent that performs it (R148), and only `QPUSH` has no word (R91, R103). -/

namespace Sys2Proof.Laws

def AgentPort.Statement (i : Instr) : Prop :=
  ∀ c : Config,
    (∀ w, encode c i = some w → w.agent = i.agent) ∧ (encode c i = none ↔ ∃ m, i = .qpush m)

theorem AgentPort.startFrame : AgentPort.Statement .startFrame := fun _ => by simp [encode, PortWord.agent, Instr.agent]

theorem AgentPort.endFrame : AgentPort.Statement .endFrame := fun _ => by simp [encode, PortWord.agent, Instr.agent]

theorem AgentPort.data (b : Byte) : AgentPort.Statement (.data b) :=
  fun _ => by simp [encode, PortWord.agent, Instr.agent]

theorem AgentPort.nop : AgentPort.Statement .nop := fun _ => by simp [encode, PortWord.agent, Instr.agent]

theorem AgentPort.pop : AgentPort.Statement .pop := fun _ => by simp [encode, PortWord.agent, Instr.agent]

theorem AgentPort.clear : AgentPort.Statement .clear := fun _ => by simp [encode, PortWord.agent, Instr.agent]

theorem AgentPort.reservedCmd3 : AgentPort.Statement .reservedCmd3 :=
  fun _ => by simp [encode, PortWord.agent, Instr.agent]

theorem AgentPort.qpush (m : Message) : AgentPort.Statement (.qpush m) := fun _ => by simp [encode]

theorem AgentPort.len : AgentPort.Statement .len := fun _ => by simp [encode, PortWord.agent, Instr.agent]

theorem AgentPort.capacity : AgentPort.Statement .capacity := fun _ => by simp [encode, PortWord.agent, Instr.agent]

theorem AgentPort.reset : AgentPort.Statement .reset := fun _ => by simp [encode, PortWord.agent, Instr.agent]

end Sys2Proof.Laws
end

