-- ==== Sys2Proof/Laws/Session.lean ====
section
/-! SUPPORT. What `processOne` and a turn of the two schedules can do. -/

namespace Sys2Proof.Laws

open Sys2Proof.Machine

/-- A byte lengthens the queue by exactly the Message it reports. -/
theorem rx_queue (b : Byte) (s : State) : (rx b s).queue = s.queue ++ (rx b s).report.accepted.toList := by
  obtain ⟨-, e⟩ | ⟨-, -, e⟩ | ⟨-, -, -, -, e⟩ | ⟨-, -, -, -, e⟩ | ⟨-, -, -, -, e⟩ | ⟨-, -, -, -, e⟩ := rx_cases b s <;>
    simp [e, Report.accepted]

/-- A byte leaves the constants. -/
theorem rx_cfg (b : Byte) (s : State) : (rx b s).cfg = s.cfg := by
  obtain ⟨-, e⟩ | ⟨-, -, e⟩ | ⟨-, -, -, -, e⟩ | ⟨-, -, -, -, e⟩ | ⟨-, -, -, -, e⟩ | ⟨-, -, -, -, e⟩ := rx_cases b s <;>
    simp [e]

theorem processOne_empty (ec : EnvConfig) {s : State} (e : Env) (h : s.queue = []) :
    processOne ec s e = .next (s.emit (.popped none), e, ec.emptyChanges) := by
  simp [processOne, exec_pop_empty h, andThen, Report.poppedMessage]

theorem processOne_cons (ec : EnvConfig) {s : State} (e : Env) {m : Message} {rest : List Message}
    (h : s.queue = m :: rest) :
    processOne ec s e =
      .next (({ s with queue := rest, rdPtr := nextPtr s.cfg s.rdPtr } : State).emit (.popped (some m)),
        interpret s.cfg ec m e) := by
  simp [processOne, exec_pop_cons h, andThen, Report.poppedMessage]

@[simp] theorem withBlock_block (x : Session) (t : State) : (x.withBlock t).block = t := rfl
@[simp] theorem withBlock_env (x : Session) (t : State) : (x.withBlock t).env = x.env := rfl
@[simp] theorem withBlock_awake (x : Session) (t : State) :
    (x.withBlock t).awake = (x.awake || t.report.msgAvail) := rfl

@[simp] theorem startSession_ui (c : Config) (ui : UiState) (e : Env) : (e.startSession c ui).ui = ui := rfl
@[simp] theorem startSession_synackComplete (c : Config) (ui : UiState) (e : Env) :
    (e.startSession c ui).synackComplete = false := rfl
@[simp] theorem startSession_log (c : Config) (ui : UiState) (e : Env) :
    (e.startSession c ui).log = e.log ++ [.transmit (synFrame c)] := rfl

theorem sessionStep_byte (ec : EnvConfig) (b : Byte) (x : Session) :
    sessionStep ec (.byte b) x = .next (x.withBlock (rx b x.block)) := by
  simp [sessionStep, exec_decodeByte, andThen]

theorem sessionStep_waiting (ec : EnvConfig) {x : Session} (h : x.awake = false) :
    sessionStep ec .dispatcher x = .next (x.withBlock x.block.idle) := by
  simp [sessionStep, h]

/-- The `POP` that returns `None` sends the dispatcher back to wait. -/
theorem sessionStep_empty (ec : EnvConfig) {x : Session} (h : x.awake = true) (hq : x.block.queue = []) :
    sessionStep ec .dispatcher x =
      .next { block := x.block.emit (.popped none), env := x.env, awake := false } := by
  simp [sessionStep, h, processOne_empty ec x.env hq, andThen, Session.afterProcess, Report.poppedMessage]

theorem sessionStep_cons (ec : EnvConfig) {x : Session} (h : x.awake = true) {m : Message} {rest : List Message}
    (hq : x.block.queue = m :: rest) :
    sessionStep ec .dispatcher x =
      .next {
        block :=
          ({ x.block with queue := rest, rdPtr := nextPtr x.block.cfg x.block.rdPtr } : State).emit (.popped (some m))
        env := (interpret x.block.cfg ec m x.env).1
        awake := true } := by
  simp [sessionStep, h, processOne_cons ec x.env hq, andThen, Session.afterProcess, Report.poppedMessage]

end Sys2Proof.Laws
end

