-- ==== Sys2Proof/Laws/Storage.lean ====
section
/-! SUPPORT. Read after write on the partial buffer, and that every operation over the two stores keeps their bounds
(INV1 to INV3). The block has no addressable memory (spec/20_memory.md R45): these stores stand in its place. -/

namespace Sys2Proof.Laws

open Sys2Proof.Machine

theorem pb_appendByte_self (s : State) (b : Byte) : (s.appendByte b).pb s.partialLength = some b := by
  simp [State.pb, State.partialLength, State.appendByte]

theorem pb_appendByte_other (s : State) (b : Byte) {i : Nat} (h : i ≠ s.partialLength) :
    (s.appendByte b).pb i = s.pb i := by
  simp only [State.pb, State.partialLength, appendByte_partialBuffer] at *
  rw [List.getElem?_append]
  split
  · rfl
  · rw [List.getElem?_eq_none (by simp; omega), List.getElem?_eq_none (by omega)]

theorem emit_bounds {s : State} (r : Report) (h : BoundInv s) : BoundInv (s.emit r) := ⟨h.inv1, h.inv2, h.inv3⟩

theorem openFrame_bounds {s : State} (h : BoundInv s) : BoundInv s.openFrame :=
  ⟨by simp, by simp, h.inv3⟩

theorem closeFrame_bounds {s : State} (h : BoundInv s) : BoundInv s.closeFrame :=
  ⟨by simp, by simp, h.inv3⟩

theorem appendByte_bounds {s : State} (b : Byte) (h : BoundInv s) (hi : s.inProgress = true)
    (hl : s.partialBuffer.length ≠ s.cfg.P) : BoundInv (s.appendByte b) := by
  refine ⟨?_, by simp [hi], h.inv3⟩
  have := h.inv1
  simp
  omega

theorem qpush_bounds {s : State} (m : Message) (h : BoundInv s) : BoundInv (s.qpush m).2 := by
  obtain ⟨-, e⟩ | ⟨hq, e⟩ := qpush_cases s m <;> rw [e]
  · exact h
  · refine ⟨h.inv1, h.inv2, ?_⟩
    have := h.inv3
    simp
    omega

theorem qpop_bounds {s : State} (h : BoundInv s) : BoundInv s.qpop.2 := by
  obtain ⟨-, e⟩ | ⟨m, rest, hq, e⟩ := qpop_cases s <;> rw [e]
  · exact h
  · refine ⟨h.inv1, h.inv2, ?_⟩
    have := h.inv3
    rw [hq] at this
    simp at this ⊢
    omega

theorem qclear_bounds {s : State} (h : BoundInv s) : BoundInv s.qclear := ⟨h.inv1, h.inv2, by simp⟩

theorem resetBlock_bounds (s : State) : BoundInv s.resetBlock := ⟨by simp, by simp, by simp⟩

end Sys2Proof.Laws
end

