-- ==== Sys2Proof/Tests/Slice0.lean ====
section
/-! SUPPORT. Tests, with their expected results from spec/95_test_vectors.md (or from the rule named), and for every
statement with hypotheses a state and operands that meet them (`witness_<statement>`). -/

namespace Sys2Proof.Tests

open Sys2Proof.Machine

/-- spec/95, configuration SMALL. -/
def small : Config := { startByte := 0x02#8, endByte := 0x03#8, P := 4, A := 3, N := 2 }

/-- SMALL with the `N` of QUEUE3. -/
def queue3 : Config := { small with N := 3 }

/-- A block with nothing pending. -/
def block (c : Config) (inFrame : Bool) (pb : List Byte) (q : List Message) (rd : Nat) : State :=
  { State.reset with cfg := c, inProgress := inFrame, partialBuffer := pb, queue := q, rdPtr := rd }

def x : Message := { code := 0x21#8, args := [0x22#8, 0x23#8, 0x24#8] }
def y : Message := { code := 0x31#8, args := [0x32#8, 0#8, 0#8] }
def z : Message := { code := 0x41#8, args := [0#8, 0#8, 0#8] }
def w : Message := { code := 0x51#8, args := [0#8, 0x52#8, 0#8] }

/-- `0x10, 0x11, 0x12, 0x13`, the full partial buffer of V4, V17 and V20. -/
def fullBuffer : List Byte := [0x10#8, 0x11#8, 0x12#8, 0x13#8]

/-- The state after an operation passes a check. -/
def after {σ : Type} (o : Host.Outcome σ Fault Refusal) (p : σ → Bool) : Bool :=
  match o with
  | .next t => p t
  | .fault _ => false
  | .refused _ => false

/-- Decoder State, queue and report of a state. -/
def shows (inFrame : Bool) (pb : List Byte) (q : List Message) (r : Report) (t : State) : Bool :=
  t.inProgress == inFrame && t.partialBuffer == pb && t.queue == q && t.report == r

/-- `rd_ptr`, `wr_ptr`, `count` of a state. -/
def pointers (rd wr n : Nat) (t : State) : Bool := t.rdPtr == rd && t.wrPtr == wr && t.count == n

/-! ### Well-formedness: an ill-formed term for each check -/

/-- R51: a sentinel is no DATA byte. -/
theorem test_wf_refuses_start_as_data : (Instr.data 0x02#8).wf small = false := by decide
theorem test_wf_refuses_end_as_data : (Instr.data 0x03#8).wf small = false := by decide
/-- R13: a Message has exactly `A` argument bytes. -/
theorem test_wf_refuses_short_message : (Instr.qpush { code := 1#8, args := [0#8, 0#8] }).wf small = false := by decide
theorem test_wf_refuses_long_message :
    (Instr.qpush { code := 1#8, args := [0#8, 0#8, 0#8, 0#8] }).wf small = false := by decide
theorem test_wf_accepts : (Instr.data 0x04#8).wf small = true ∧ (Instr.qpush x).wf small = true := by decide

/-! ### Decoding: words from R51 (boundary values of spec/95), R59, R67 -/

theorem test_decode_sentinels :
    decodeTableWord 8 0b00000010 = some .startFrame ∧ decodeTableWord 8 0b00000011 = some .endFrame := by decide
theorem test_decode_data_1ddddddd :
    decodeTableWord 8 0b10000000 = some (.data 0x80#8) ∧ decodeTableWord 8 0b11111111 = some (.data 0xFF#8) := by decide
theorem test_decode_data_01dddddd :
    decodeTableWord 8 0b01000000 = some (.data 0x40#8) ∧ decodeTableWord 8 0b01111111 = some (.data 0x7F#8) := by decide
theorem test_decode_data_001ddddd :
    decodeTableWord 8 0b00100000 = some (.data 0x20#8) ∧ decodeTableWord 8 0b00111111 = some (.data 0x3F#8) := by decide
theorem test_decode_data_0001dddd :
    decodeTableWord 8 0b00010000 = some (.data 0x10#8) ∧ decodeTableWord 8 0b00011111 = some (.data 0x1F#8) := by decide
theorem test_decode_data_00001ddd :
    decodeTableWord 8 0b00001000 = some (.data 0x08#8) ∧ decodeTableWord 8 0b00001111 = some (.data 0x0F#8) := by decide
theorem test_decode_data_000001dd :
    decodeTableWord 8 0b00000100 = some (.data 0x04#8) ∧ decodeTableWord 8 0b00000111 = some (.data 0x07#8) := by decide
theorem test_decode_data_0000000d :
    decodeTableWord 8 0b00000000 = some (.data 0x00#8) ∧ decodeTableWord 8 0b00000001 = some (.data 0x01#8) := by decide
theorem test_decode_commands :
    decodeTableWord 2 0b00 = some .nop ∧ decodeTableWord 2 0b01 = some .pop ∧
    decodeTableWord 2 0b10 = some .clear ∧ decodeTableWord 2 0b11 = some .reservedCmd3 := by decide
theorem test_decode_rst : decodeTableWord 1 1 = some .reset ∧ decodeTableWord 1 0 = none := by decide
/-- R93: the status reads have no word of bits; the request itself is what the consumer puts. -/
theorem test_decode_status_reads :
    (decode small (.request .readLen)).toOption = some .len ∧
    (decode small (.request .readCapacity)).toOption = some .capacity := by decide
theorem test_qpush_has_no_word : encode small (.qpush x) = none := by decide

/-! ### One operation each -/

/-- V3. -/
theorem test_start_discards_frame :
    after (exec .startFrame (block small true [0x05#8, 0x41#8] [x] 0))
      (shows true [] [x] (.received .evStart none)) = true := by decide
/-- V4. -/
theorem test_start_after_overflow :
    after (exec .startFrame (block small true fullBuffer [] 0))
      (shows true [] [] (.received .evStart none)) = true := by decide
/-- V17. -/
theorem test_end_accepts_full_buffer :
    after (exec .endFrame (block small true fullBuffer [] 0))
      (shows false [] [{ code := 0x10#8, args := [0x11#8, 0x12#8, 0x13#8] }]
        (.received .evAccept (some { code := 0x10#8, args := [0x11#8, 0x12#8, 0x13#8] }))) = true := by decide
/-- V20. -/
theorem test_end_on_full_queue :
    after (exec .endFrame (block small true fullBuffer [x, y] 0))
      (shows false [] [x, y] (.received .evQFull none)) = true := by decide
/-- V11. -/
theorem test_data_appends :
    after (exec (.data 0x04#8) (block small true [0x01#8] [] 0))
      (shows true [0x01#8, 0x04#8] [] (.received .evAppend none)) = true := by decide
/-- V13, in SMALL. -/
theorem test_data_overflows :
    after (exec (.data 0x41#8) (block small true fullBuffer [] 0))
      (shows true fullBuffer [] (.received .evOverflow none)) = true := by decide
/-- W6. -/
theorem test_nop : after (exec .nop (block small false [] [x] 0)) (shows false [] [x] .nothing) = true := by decide
/-- QUEUE3 step 11. -/
theorem test_pop_wraps :
    after (exec .pop (block queue3 false [] [z, w] 2))
      (fun t => shows false [] [w] (.popped (some z)) t && pointers 0 1 1 t) = true := by decide
/-- QUEUE3 step 13. -/
theorem test_pop_empty :
    after (exec .pop (block queue3 false [] [] 1))
      (fun t => shows false [] [] (.popped none) t && pointers 1 1 0 t) = true := by decide
/-- W5, first operation. -/
theorem test_clear_keeps_frame :
    after (exec .clear (block queue3 true [0x0C#8] [x, y, z] 1))
      (fun t => shows true [0x0C#8] [] .nothing t && pointers 0 0 0 t) = true := by decide
/-- W7. -/
theorem test_reserved_command : exec .reservedCmd3 (block small false [] [] 0) = .refused .reservedCommand := rfl
/-- QUEUE3 step 9. -/
theorem test_qpush_reuses_slot :
    after (exec (.qpush w) (block queue3 false [] [y, z] 1))
      (fun t => shows false [] [y, z, w] (.pushed true) t && pointers 1 1 3 t &&
        t.slot 0 == some w && t.slot 1 == some y && t.slot 2 == some z) = true := by decide
/-- QUEUE3 step 7. -/
theorem test_qpush_full :
    after (exec (.qpush w) (block queue3 false [] [x, y, z] 0))
      (fun t => shows false [] [x, y, z] (.pushed false) t && pointers 0 0 3 t) = true := by decide
/-- QUEUE3 step 6. -/
theorem test_len :
    after (exec .len (block queue3 false [] [x, y, z] 0))
      (fun t => shows false [] [x, y, z] (.length 3) t && t.full && !t.empty) = true := by decide
/-- QUEUE3 step 2. -/
theorem test_capacity :
    after (exec .capacity (block queue3 false [] [] 0))
      (fun t => shows false [] [] (.capacity 3) t && t.empty && !t.full) = true := by decide
/-- Z1. -/
theorem test_reset :
    after (exec .reset (block small true [0x05#8, 0x41#8, 0x42#8] [x, y] 1))
      (fun t => shows false [] [] .nothing t && pointers 0 0 0 t) = true := by decide

/-! ### A step -/

/-- V6: an END while idle is a desync byte. -/
theorem test_step_idle_end :
    after (step ((block small false [] [x] 0).withFetchWord 8 0b00000011))
      (shows false [] [x] (.received .evDesync none)) = true := by decide
/-- QUEUE3 step 8, in SMALL. -/
theorem test_step_pop :
    after (step ((block small false [] [x, y] 0).withFetchWord 2 0b01))
      (shows false [] [y] (.popped (some x))) = true := by decide
/-- Z2. -/
theorem test_step_rst :
    after (step (State.reset.withFetchWord 1 1)) (fun t => t == State.reset) = true := by decide

/-! ### Operands, ports, environment -/

/-- The wide vectors of spec/95 section 2. -/
theorem test_message_vector :
    messageVector (mkMessage small fullBuffer) = 0x13121110 ∧
    messageVector (mkMessage small [0x04#8, 0x09#8]) = 0x00000904 ∧ messageVector (mkMessage small []) = 0 := by decide
/-- X2. -/
theorem test_cycle_rx_first :
    after (cycle .rxFirst { rst := false, rxValid := true, rxByte := 0x03#8, cmd := 0b01#2 }
      (block small true [0x0C#8] [x, y] 0))
      (fun r => r.1.queue == [y] && r.2.evCode == 5#3 && r.2.popMsg == some 0x24232221) = true := by decide
/-- X2. -/
theorem test_cycle_cmd_first :
    after (cycle .cmdFirst { rst := false, rxValid := true, rxByte := 0x03#8, cmd := 0b01#2 }
      (block small true [0x0C#8] [x, y] 0))
      (fun r => r.1.queue == [y, { code := 0x0C#8, args := [0#8, 0#8, 0#8] }] && r.2.evCode == 3#3 &&
        r.2.evMsg == some 0x0000000C && r.2.popMsg == some 0x24232221) = true := by decide

/-- An environment for the tests: hostname capacity 4, as in S3. -/
def ec : EnvConfig :=
  { capFace := 4, capHostname := 4, capChannel := 4, capApStat := 4, capUptime := 4, capHandshakes := 4,
    capStatus := 4, emptyChanges := false, nakIsUnrecognised := false, firstAckChanges := false,
    sessionResetsBlock := false, modeWithoutArgument := .auto }
def ui0 : UiState :=
  { face := [], hostname := [], channel := [], apStat := [], uptime := [], handshakes := [], status := [],
    mode := .manual }
def env0 : Env := sessionStart small ui0

/-- S3. -/
theorem test_name_is_truncated :
    (interpret small ec { code := 0x05#8, args := [0x61#8, 0x62#8, 0x63#8, 0x64#8, 0x65#8, 0x66#8] } env0).1.log =
      [.transmit [0x02#8, 0x16#8, 0x03#8], .transmit [0x02#8, 0x06#8, 0x03#8],
       .setField .hostname [0x61#8, 0x62#8, 0x63#8, 0x64#8]] := by decide
/-- S5, second row. -/
theorem test_mode_default :
    (interpret small ec { code := 0x0A#8, args := [0x07#8, 0#8, 0#8] } env0).1.ui.mode = .manual ∧
    (interpret small ec { code := 0x0A#8, args := [0x06#8, 0#8, 0#8] } env0).1.ui.mode = .ai := by decide

/-- S4, as two turns beside the block: the END of `FRAME 0x06` wakes the dispatcher. -/
theorem test_end_wakes_dispatcher :
    after (sessionStep ec (.byte 0x03#8) { block := block small true [0x06#8] [] 0, env := env0, awake := false })
      (fun s => s.awake && s.block.queue == [{ code := 0x06#8, args := [0#8, 0#8, 0#8] }]) = true := by decide
/-- S4: its `POP` of the first ACK. -/
theorem test_dispatcher_turn :
    after (sessionStep ec .dispatcher
      { block := block small false [] [{ code := 0x06#8, args := [0#8, 0#8, 0#8] }] 0, env := env0, awake := true })
      (fun s => s.awake && s.env.synackComplete && s.block.queue == [] &&
        s.env.sent == [[0x02#8, 0x16#8, 0x03#8], [0x02#8, 0x08#8, 0x03#8]]) = true := by decide

/-! ### Witnesses: the hypotheses of each statement can be met -/

theorem witness_IdleByteIsDropped :
    (block small false [] [x] 0).inProgress = false ∧ small.startByte ≠ small.endByte ∧
    (0x03#8 ≠ small.startByte ∧ 0x00#8 ≠ small.startByte ∧ 0xFF#8 ≠ small.startByte) := by decide

/-- With a free slot and with the last free slot. -/
theorem witness_EndAcceptsFrame :
    small.startByte ≠ small.endByte ∧ (block small true [] [] 0).inProgress = true ∧
    (block small true [] [] 0).queue.length < small.N ∧ (block small true fullBuffer [x] 0).inProgress = true ∧
    (block small true fullBuffer [x] 0).queue.length + 1 = small.N := by decide

theorem witness_EndOnFullQueueDropsFrame :
    small.startByte ≠ small.endByte ∧ (block small true [] [x, y] 0).inProgress = true ∧
    (block small true [] [x, y] 0).queue.length = small.N := by decide

/-- The first and the last append of a frame. -/
theorem witness_DataAppends :
    (0x04#8 ≠ small.startByte ∧ 0x04#8 ≠ small.endByte) ∧ (block small true [] [] 0).inProgress = true ∧
    (block small true [] [] 0).partialLength < small.P ∧
    (block small true [0x10#8, 0x11#8, 0x12#8] [] 0).partialLength + 1 = small.P := by decide

theorem witness_DataOverflowDropsByte :
    (0x41#8 ≠ small.startByte ∧ 0x41#8 ≠ small.endByte) ∧ (block small true fullBuffer [] 0).inProgress = true ∧
    (block small true fullBuffer [] 0).partialLength = small.P := by decide

theorem witness_QpushTriesToAppend :
    (block small false [] [x, y] 0).queue.length = small.N ∧ (block small false [] [x] 0).queue.length ≠ small.N ∧
    (block small false [] [x] 0).queue.length + 1 = small.N := by decide

theorem witness_PopRemovesOldest :
    (block small false [] [] 0).queue = [] ∧ (block small false [] [x, y] 1).queue = x :: [y] := by decide

theorem witness_ClearEmptiesQueueOnly : 1 ≤ (block small true [] [x] 0).cfg.N := by decide

theorem witness_ReservedCommandIsRefused :
    ((block small false [] [] 0).withFetchWord 2 0b11).cfg.Legal ∧
    ((block small false [] [] 0).withFetchWord 2 0b11).turns = .consumer :: [] ∧
    ((block small false [] [] 0).withFetchWord 2 0b11).cmdIn = .command 0b11#2 :: [] := by decide

theorem witness_ResetValues :
    State.reset.cfg.Legal ∧ (block small false [] [] 0).cfg.Legal ∧
    exec .reset (block small true [0x05#8] [x, y] 1) = .next (block small false [] [] 0) := ⟨by decide, by decide, rfl⟩

theorem witness_ByteClassesMatchTable : Config.documented.startByte ≠ Config.documented.endByte := by decide

theorem witness_DecodeEncodeAgree :
    small.Legal ∧ (Instr.data 0x04#8).wf small = true ∧ encode small (.data 0x04#8) = some (.rx 0x04#8) ∧
    decode small (.request (.command 0b10#2)) = .ok .clear := ⟨by decide, by decide, rfl, rfl⟩

/-- The empty and the full buffer, with an argument index in each clause. -/
theorem witness_MessageAssembly :
    small.Legal ∧ fullBuffer.length = small.P ∧ 0 < fullBuffer.length ∧ ([] : List Byte).length ≤ small.P ∧
    (2 < small.A ∧ 2 + 1 < fullBuffer.length) ∧ (2 < small.A ∧ ([] : List Byte).length ≤ 2 + 1) ∧
    3 < fullBuffer.length := by decide

theorem witness_MessageVectorLayout : x.wf small ∧ 0 < x.bytes.length ∧ 3 < x.bytes.length := by decide

theorem witness_StepRunsDecodedOperation :
    small.Legal ∧
    (((block small false [] [] 0).withFetchWord 8 0x02).turns = .producer :: [] ∧
      ((block small false [] [] 0).withFetchWord 8 0x02).rxIn = 0x02#8 :: []) ∧
    (((block small false [] [] 0).withFetchWord 2 0b01).turns = .consumer :: [] ∧
      ((block small false [] [] 0).withFetchWord 2 0b01).cmdIn = .command 0b01#2 :: []) ∧
    (((block small false [] [] 0).withFetchWord 1 1).turns = .orchestrator :: [] ∧
      ((block small false [] [] 0).withFetchWord 1 1).rstIn = 1#1 :: []) := by decide

theorem witness_StepWithoutWordAndPlacedWord :
    (block small false [] [] 0).cfg.Legal ∧ (block small false [] [] 0).turns = [] ∧
    ({ block small false [] [] 0 with turns := [.producer] } : State).rxIn = [] ∧
    ({ block small false [] [] 0 with turns := [.consumer] } : State).cmdIn = [] ∧
    ({ block small false [] [] 0 with turns := [.orchestrator] } : State).rstIn = [] ∧
    ({ block small false [] [] 0 with turns := [.orchestrator], rstIn := [0#1] } : State).rstIn = 0#1 :: [] := by decide

theorem witness_RunIsOneTotalOrder :
    small.Legal ∧
    Host.Core.run Sys2Proof.core 1 ((block small false [] [] 0).withFetchWord 8 0x02) =
      .next { block small true [] [] 0 with report := .received .evStart none } ∧
    Host.Core.run Sys2Proof.core 1 ((block small false [] [] 0).withFetchWord 2 0b11) =
      .refused .reservedCommand := ⟨by decide, rfl, rfl⟩

theorem witness_EveryInterleavingIsASchedule :
    (block small false [] [x] 0).turns = [] ∧ (block small false [] [x] 0).rxIn = [] ∧
    (block small false [] [x] 0).cmdIn = [] ∧ (block small false [] [x] 0).rstIn = [] := by decide

/-- A legal configuration, and one that breaks each constraint of R5. -/
theorem witness_StepIsNeverStuck :
    small.Legal ∧ ¬ ({ small with endByte := 0x02#8 } : Config).Legal ∧ ¬ ({ small with P := 0 } : Config).Legal ∧
    ¬ ({ small with N := 0 } : Config).Legal ∧ ¬ ({ small with A := 2 } : Config).Legal := by decide

/-- A frame with a full buffer and a full queue meets the bounds. -/
theorem boundInv_full : BoundInv (block small true fullBuffer [x, y] 1) := ⟨by decide, by decide, by decide⟩

theorem witness_OperationsKeepBounds :
    BoundInv (block small true fullBuffer [x, y] 1) ∧
    exec .endFrame (block small true fullBuffer [x, y] 1) =
      .next { block small false [] [x, y] 1 with report := .received .evQFull none } ∧
    execAll [.reset, .startFrame] (block small true fullBuffer [x, y] 1) =
      .next { block small true [] [] 0 with report := .received .evStart none } := ⟨boundInv_full, rfl, rfl⟩

/-- The invariant of the block holds of a full queue, whose Messages hold no sentinel, with a frame open. -/
theorem blockInv_full : BlockInv ((block small true fullBuffer [x, y] 1).withFetchWord 8 0x03) :=
  ⟨by decide, ⟨by decide, by decide, by decide⟩, by decide, by decide, by decide, by decide⟩

theorem witness_StepKeepsInvariant :
    BlockInv ((block small true fullBuffer [x, y] 1).withFetchWord 8 0x03) ∧
    step ((block small true fullBuffer [x, y] 1).withFetchWord 8 0x03) =
      .next { block small false [] [x, y] 1 with report := .received .evQFull none } := ⟨blockInv_full, rfl⟩

theorem witness_CountersFitTheirWidths :
    BlockInv ((block small true fullBuffer [x, y] 1).withFetchWord 8 0x03) ∧
    x ∈ ((block small true fullBuffer [x, y] 1).withFetchWord 8 0x03).queue := ⟨blockInv_full, by decide⟩

theorem witness_EventCodesAndCauses :
    small.Legal ∧ isRx .nop = false ∧
    exec .nop (block small false [] [x] 0) = .next (block small false [] [x] 0) := ⟨by decide, rfl, rfl⟩

theorem witness_QueueBoundLaw :
    (block small false [] [x, y] 0).queue.length ≤ (block small false [] [x, y] 0).cfg.N ∧
    execAll [.qpush z, .len] (block small false [] [x, y] 0) =
      .next { block small false [] [x, y] 0 with report := .length 2 } := ⟨by decide, rfl⟩

/-- A push, a pop, a clear. -/
theorem witness_FifoLaw :
    runHistory [.qpush y, .pop, .clear] (block small false [] [x] 0) { pushed := [x], popped := [] } =
      some (block small false [] [] 0, { pushed := [x], popped := [x] }) := rfl

theorem witness_QueueChangesOnlyAtItsEnds :
    Instr.pop.wf small = true ∧
    exec .pop (block small false [] [x, y] 1) =
      .next { block small false [] [y] 0 with report := .popped (some x) } := ⟨rfl, rfl⟩

/-- Both pointers about to wrap. -/
theorem witness_SlotsChangeOnlyAtThePointers :
    small.Legal ∧ (block small false [] [x] 1).rdPtr < small.N ∧
    (block small false [] [x] 1).queue.length < small.N ∧ 0 < (block small false [] [x] 1).queue.length ∧
    exec .clear (block small false [] [x] 1) = .next (block small false [] [] 0) :=
  ⟨by decide, by decide, by decide, by decide, rfl⟩

theorem witness_PointersStepModuloN :
    queue3.Legal ∧ (block queue3 false [] [x, y] 2).rdPtr + 1 = queue3.N ∧
    (block queue3 false [] [x, y] 2).count + 1 = queue3.N ∧ 0 < (block queue3 false [] [x, y] 2).count ∧
    (block queue3 false [] [x, y, z] 2).count = queue3.N := by decide

/-- QUEUE3 step 9: `SLOT = [w, y, z]`, `rd_ptr = wr_ptr = 1`, `count = 3`. -/
def ref3 : RefQueue := { slots := [w, y, z], wrPtr := 1, rdPtr := 1, count := 3 }

theorem ref3_inv : RefQueue.Inv 3 ref3 := ⟨by decide, by decide, by decide, by decide, by decide⟩

theorem witness_PointerQueueRefinesQueue :
    queue3.Legal ∧ RefQueue.Represents ref3 (block queue3 false [] [y, z, w] 1) ∧
    (block queue3 false [] [y, z, w] 1).slot 0 = some w ∧ RefQueue.Inv 3 ref3 :=
  ⟨by decide, ⟨ref3_inv, by decide, by decide⟩, by decide, ref3_inv⟩

theorem witness_EmptyFrameMakesZeroMessage :
    small.Legal ∧ (block small false [] [x] 0).queue.length < small.N ∧
    (block small true [0x05#8] [x, y] 0).queue.length = small.N := by decide

theorem witness_EndAfterOverflowKeepsFirstBytes :
    small.Legal ∧ (block small true fullBuffer [] 0).inProgress = true ∧
    (block small true fullBuffer [] 0).partialLength = small.P ∧ (∀ b ∈ [0x14#8, 0x15#8], Payload small b) ∧
    (block small true fullBuffer [x] 0).queue.length < small.N ∧
    (block small true fullBuffer [x, y] 0).queue.length = small.N := by decide

/-- Two stray STARTs, then the longest frame of SMALL, a `CLEAR` and a `POP` between its bytes, a free slot at its
END. -/
theorem witness_FrameDecodesFromAnyState :
    small.Legal ∧ Payload small 0x0C#8 ∧ (∀ b ∈ [0x41#8, 0x42#8, 0x43#8], Payload small b) ∧
    [0x41#8, 0x42#8, 0x43#8].length = small.P - 1 ∧
    (∀ i ∈ [Instr.startFrame, .startFrame, .startFrame, .clear, .data 0x0C#8, .data 0x41#8, .pop, .data 0x42#8,
      .data 0x43#8], isRx i = true ∨ isConsumerOp i = true) ∧
    [Instr.startFrame, .startFrame, .startFrame, .clear, .data 0x0C#8, .data 0x41#8, .pop, .data 0x42#8,
      .data 0x43#8].filter isRx ++ [.endFrame] =
      (List.replicate 2 small.startByte ++ encodeFrame small 0x0C#8 [0x41#8, 0x42#8, 0x43#8]).map
        (decodeByte small) ∧
    after (execAll [Instr.startFrame, .startFrame, .startFrame, .clear, .data 0x0C#8, .data 0x41#8, .pop,
      .data 0x42#8, .data 0x43#8] (block small true [0x05#8] [x, y] 0))
      (fun u => decide (u.queue.length < u.cfg.N)) = true := by decide

theorem witness_StreamDecodesToItsFrames :
    small.Legal ∧ (block small false [] [x] 0).inProgress = false ∧ (block small false [] [x] 0).partialBuffer = [] ∧
    (block small false [] [x] 0).queue.length ≤ small.N ∧
    streamMessages small [0x41#8, 0x02#8, 0x05#8, 0x02#8, 0x0C#8, 0x03#8, 0x03#8] =
      [{ code := 0x0C#8, args := [0#8, 0#8, 0#8] }] := by decide

theorem witness_OpenFrameSurvivesClear :
    small.Legal ∧ (block small true [0x0C#8] [x, y] 0).inProgress = true ∧
    (∀ b ∈ [0x41#8, 0x42#8, 0x43#8], Payload small b) ∧
    (block small true [0x0C#8] [x, y] 0).partialLength + [0x41#8, 0x42#8, 0x43#8].length = small.P := by decide

theorem witness_AgentsKeepToTheirState :
    exec .clear (block small true [0x0C#8] [x, y] 0) = .next (block small true [0x0C#8] [] 0) ∧
    Instr.clear.agent = .consumer ∧
    exec .endFrame (block small true fullBuffer [x, y] 1) =
      .next { block small false [] [x, y] 1 with report := .received .evQFull none } ∧
    Instr.endFrame.agent = .producer := ⟨rfl, rfl, rfl, rfl⟩

theorem witness_PartialBufferChangesOnlyAtItsEnd :
    (Instr.data 0x04#8).wf small = true ∧
    exec (.data 0x04#8) (block small true [0x01#8] [] 0) =
      .next { block small true [0x01#8, 0x04#8] [] 0 with report := .received .evAppend none } := ⟨by decide, rfl⟩

/-- Two states with the queue at different places of the storage. -/
theorem witness_HiddenStateIsUnobservable :
    SameArchitecture ((block small false [] [x] 0).withFetchWord 2 0b01)
      ((block small false [] [x] 1).withFetchWord 2 0b01) ∧
    step ((block small false [] [x] 0).withFetchWord 2 0b01) =
      .next { block small false [] [] 1 with report := .popped (some x) } :=
  ⟨⟨rfl, rfl, rfl, rfl, rfl, rfl, rfl, rfl⟩, rfl⟩

/-- X3 (the orders agree); X2, X1 and X4, X5. -/
theorem witness_SameCycleOrders :
    small.Legal ∧
    ((block small true [0x0C#8] [x] 0).queue.length ≤ small.N ∧
      ¬ OrderMatters { rst := false, rxValid := true, rxByte := 0x03#8, cmd := 0b01#2 }
        (block small true [0x0C#8] [x] 0)) ∧
    ((block small true [0x0C#8] [x, y] 0).inProgress = true ∧ (block small true [0x0C#8] [x, y] 0).queue = x :: [y] ∧
      (block small true [0x0C#8] [x, y] 0).queue.length = small.N) ∧
    (block small true [0x0C#8] [] 0).queue = [] ∧ (0b01#2 ≠ 0b11#2 ∧ 0b10#2 ≠ 0b11#2) := by
  refine ⟨by decide, ⟨by decide, ?_⟩, by decide, by decide, by decide⟩
  unfold OrderMatters
  decide

theorem witness_ResetOverridesCycle :
    ({ rst := true, rxValid := true, rxByte := 0x03#8, cmd := 0b11#2 } : PortsIn).rst = true := rfl

/-- A cycle with a byte, a cycle without one, a cycle of `RESET`. -/
theorem witness_CycleOutputs :
    after (cycle .rxFirst { rst := false, rxValid := true, rxByte := 0x02#8, cmd := 0b00#2 }
      (block small false [] [] 0)) (fun _ => true) = true ∧
    after (cycle .cmdFirst { rst := false, rxValid := false, rxByte := 0x02#8, cmd := 0b01#2 }
      (block small false [] [x] 0)) (fun _ => true) = true ∧
    after (cycle .cmdFirst { rst := true, rxValid := true, rxByte := 0x02#8, cmd := 0b01#2 }
      (block small false [] [x] 0)) (fun _ => true) = true := by decide

theorem witness_DispatcherControlCodes :
    env0.synackComplete = false ∧
    (interpret small ec { code := 0x06#8, args := [] } env0).1.synackComplete = true ∧
    0xFF#8 ∉ [0x16#8, 0x06#8, 0x15#8, 0x04#8, 0x05#8, 0x0D#8, 0x07#8, 0x08#8, 0x09#8, 0x0A#8, 0x0B#8, 0x0C#8] ∧
    0x00#8 ∉ [0x16#8, 0x06#8, 0x15#8, 0x04#8, 0x05#8, 0x0D#8, 0x07#8, 0x08#8, 0x09#8, 0x0A#8, 0x0B#8, 0x0C#8] := by
  decide

theorem witness_DispatcherModeMapping : 0x04#8 ≠ 0x05#8 ∧ 0x04#8 ≠ 0x06#8 ∧ 0xFF#8 ≠ 0x05#8 ∧ 0xFF#8 ≠ 0x06#8 := by
  decide

/-- A copy that a zero byte ends, below the capacity and the argument length. -/
theorem witness_DispatcherFieldCopy :
    (0x05#8, UiField.hostname) ∈ [(0x04#8, UiField.face), (0x05#8, .hostname), (0x0D#8, .channel), (0x07#8, .apStat),
      (0x08#8, .uptime), (0x0B#8, .handshakes), (0x0C#8, .status)] ∧
    copyField (ec.cap .hostname) [0x61#8, 0#8, 0x62#8] = [0x61#8] := by decide

theorem witness_DispatcherDrainsInOrder :
    (block small false [] [] 0).queue = [] ∧ (block small false [] [x, y] 0).queue = x :: [y] := by decide

theorem witness_ReplyFramesAreAccepted :
    State.reset.cfg = Config.documented ∧ State.reset.queue.length < State.reset.cfg.N ∧
    0x08#8 ∈ [0x06#8, 0x15#8, 0x16#8, 0x08#8] := by decide

/-- A waiting dispatcher, an awake one on an empty queue, an awake one with Messages. -/
theorem witness_SignalWakesDispatcher :
    ({ block := block small false [] [x, y] 0, env := env0, awake := false } : Session).awake = false ∧
    (({ block := block small false [] [] 0, env := env0, awake := true } : Session).awake = true ∧
      ({ block := block small false [] [] 0, env := env0, awake := true } : Session).block.queue = []) ∧
    ({ block := block small false [] [x, y] 0, env := env0, awake := true } : Session).block.queue = x :: [y] := by decide

theorem witness_SessionStartSendsSyn :
    ec.sessionResetsBlock = false ∧ ({ ec with sessionResetsBlock := true } : EnvConfig).sessionResetsBlock = true := by
  decide

theorem witness_NoMessageIsStranded :
    NoneStranded { block := block small true [0x06#8] [] 0, env := env0, awake := false } ∧
    sessionStep ec (.byte 0x41#8) { block := block small true [0x06#8] [] 0, env := env0, awake := false } =
      .next { block := { block small true [0x06#8, 0x41#8] [] 0 with report := .received .evAppend none },
              env := env0, awake := false } ∧
    ({ block := block small false [] [x, y] 0, env := env0, awake := true } : Session).awake = true :=
  ⟨.inr rfl, rfl, rfl⟩

/-- A frame that arrives between the dispatcher's `POP`s. -/
theorem witness_DispatcherInterpretsInArrivalOrder :
    (∀ turn ∈ [SessionTurn.dispatcher, .byte 0x02#8, .byte 0x16#8, .dispatcher, .byte 0x03#8, .dispatcher],
      turn.isSchedule = true) ∧
    sessionAccepted ec [.dispatcher, .byte 0x02#8, .byte 0x16#8, .dispatcher, .byte 0x03#8, .dispatcher]
      { block := block small false [] [x] 0, env := env0, awake := true } =
      [{ code := 0x16#8, args := [0#8, 0#8, 0#8] }] := by decide

end Sys2Proof.Tests
end

section
/-! The widths of R6 suffice: what the model's `clog2` bounds, the range of a Message's vector, and from both the
bounds of the block's counters, pointers and Messages. -/

namespace Sys2Proof

open Sys2Proof.Machine Sys2Proof.Laws

/-- R6's `ceil(log2(n))`, which the model computes as the floor of `log2(n - 1)` plus 1, has its defining bound. -/
theorem le_two_pow_clog2 (n : Nat) : n ≤ 2 ^ clog2 n := by
  unfold clog2
  split
  case isTrue hle => simpa using hle
  case isFalse hgt =>
    have hlog : n - 1 < 2 ^ (Nat.log2 (n - 1) + 1) := Nat.lt_log2_self
    omega

/-- A counter that runs from 0 to `n` inclusive fits the width R6 gives it. -/
theorem lt_two_pow_clog2_succ {k n : Nat} (h : k ≤ n) : k < 2 ^ clog2 (n + 1) :=
  lt_of_lt_of_le (Nat.lt_succ_of_le h) (le_two_pow_clog2 (n + 1))

/-- R13, R56: a Message of `A` argument bytes has `1 + A` bytes. -/
theorem bytes_length_of_wf {c : Config} {m : Message} (h : m.wf c) : m.bytes.length = 1 + c.A := by
  rw [Message.bytes, List.length_cons, h, Nat.add_comm]

/-- R56: the vector of a Message fits the width R6 gives a Message. -/
theorem messageVector_lt_of_wf {c : Config} {m : Message} (h : m.wf c) :
    messageVector m < 2 ^ c.messageWidth := by
  rw [Config.messageWidth, ← bytes_length_of_wf h]
  exact bytesValue_lt m.bytes

/-- R97: `wr_ptr` is a slot index of every block that has slots. -/
theorem wrPtr_lt {s : State} (h : s.cfg.Legal) : s.wrPtr < s.cfg.N := by
  obtain ⟨-, -, hN, -⟩ := h
  exact Nat.mod_lt _ hN

/-- Settles O30: INV1 bounds `partial_length`, INV3 bounds `LEN`, and a queued Message has `A` argument bytes. -/
theorem countersFitTheirWidths : Obligations.CountersFitTheirWidths := by
  intro s inv
  have hlength : s.partialLength < 2 ^ s.cfg.lengthWidth := lt_two_pow_clog2_succ inv.bounds.inv1
  have hlen : s.len < 2 ^ s.cfg.countWidth := lt_two_pow_clog2_succ inv.bounds.inv3
  have hcapacity : s.capacity < 2 ^ s.cfg.countWidth := lt_two_pow_clog2_succ le_rfl
  have hptr : s.cfg.N ≤ 2 ^ s.cfg.ptrWidth := le_two_pow_clog2 s.cfg.N
  exact ⟨hlength, hlen, hcapacity, inv.rdPtr_lt, wrPtr_lt inv.legal, hptr,
    fun m hm => messageVector_lt_of_wf (inv.queue_wf m hm)⟩

end Sys2Proof
end

section
/-! What an operation can do, once: the meanings of `exec` read backwards from the state they answer. -/

namespace Sys2Proof

open Sys2Proof.Machine Sys2Proof.Laws

/-- All that an operation can do that answers a next state: the `RX` of a byte, a report alone, or the one named
write of the queue or of the block. The reserved command answers none. -/
theorem exec_next_cases {i : Instr} {s t : State} (h : exec i s = .next t) :
    (∃ b, (i = .startFrame ∧ b = s.cfg.startByte ∨ i = .endFrame ∧ b = s.cfg.endByte ∨ i = .data b) ∧
      t = rx b s) ∨
    (∃ r, (i = .nop ∧ r = .nothing ∨ i = .len ∧ r = .length s.len ∨ i = .capacity ∧ r = .capacity s.capacity) ∧
      t = s.emit r) ∨
    (i = .pop ∧ t = s.qpop.2.emit (.popped s.qpop.1)) ∨
    (∃ m, i = .qpush m ∧ t = (s.qpush m).2.emit (.pushed (s.qpush m).1)) ∨
    (i = .clear ∧ t = s.qclear.emit .nothing) ∨
    (i = .reset ∧ t = s.resetBlock.emit .nothing) := by
  cases i with
  | startFrame => cases h; exact .inl ⟨_, .inl ⟨rfl, rfl⟩, rfl⟩
  | endFrame => cases h; exact .inl ⟨_, .inr (.inl ⟨rfl, rfl⟩), rfl⟩
  | data b => cases h; exact .inl ⟨b, .inr (.inr rfl), rfl⟩
  | nop => cases h; exact .inr (.inl ⟨_, .inl ⟨rfl, rfl⟩, rfl⟩)
  | len => cases h; exact .inr (.inl ⟨_, .inr (.inl ⟨rfl, rfl⟩), rfl⟩)
  | capacity => cases h; exact .inr (.inl ⟨_, .inr (.inr ⟨rfl, rfl⟩), rfl⟩)
  | pop => cases h; exact .inr (.inr (.inl ⟨rfl, rfl⟩))
  | qpush m => cases h; exact .inr (.inr (.inr (.inl ⟨m, rfl, rfl⟩)))
  | clear => cases h; exact .inr (.inr (.inr (.inr (.inl ⟨rfl, rfl⟩))))
  | reset => cases h; exact .inr (.inr (.inr (.inr (.inr ⟨rfl, rfl⟩))))
  | reservedCmd3 => cases h

/-- No word at a port is a `QPUSH` (R91, R103). -/
theorem decode_ne_qpush {c : Config} {w : PortWord} {i : Instr} (h : decode c w = .ok i) (m : Message) :
    i ≠ .qpush m := by
  rintro rfl
  cases w with
  | rx b =>
    obtain ⟨-, e⟩ | ⟨-, -, e⟩ | ⟨-, -, e⟩ := decodeByte_cases c b <;> simp [decode, e] at h
  | request r =>
    cases r with
    | command w =>
      simp only [decode, decodeRequest, decodeCommand, Except.ok.injEq] at h
      split_ifs at h
    | readLen => simp [decode, decodeRequest] at h
    | readCapacity => simp [decode, decodeRequest] at h
  | rst level =>
    simp only [decode] at h
    split_ifs at h
    simp at h

theorem execWord_ok {w : PortWord} {i : Instr} {s : State} (h : decode s.cfg w = .ok i) :
    execWord w s = exec i s := by
  rw [execWord, h]

theorem execWord_error {w : PortWord} {e : DecodeError} {s : State} (h : decode s.cfg w = .error e) :
    execWord w s = .next s.idle := by
  rw [execWord, h]

/-- All that a turn can do: nothing, or the operation that its word decodes to. -/
theorem execTurn_cases (w : Option PortWord) (s : State) :
    execTurn w s = .next s.idle ∨
      ∃ (x : PortWord) (i : Instr), w = some x ∧ decode s.cfg x = .ok i ∧ execTurn w s = exec i s := by
  cases w with
  | none => exact .inl rfl
  | some x =>
    cases hd : decode s.cfg x with
    | ok i => exact .inr ⟨x, i, rfl, hd, execWord_ok hd⟩
    | error e => exact .inl (execWord_error hd)

end Sys2Proof
end

section
/-! The invariant of the block: every named write keeps it, hence the `RX` of every byte, every operation an agent
can ask for, and every step. -/

namespace Sys2Proof

open Sys2Proof.Machine Sys2Proof.Laws

/-- R13, R44, R55: what `BlockInv` asks of one queued Message. -/
def Queueable (c : Config) (m : Message) : Prop :=
  m.wf c ∧ ∀ b ∈ m.bytes, b = 0#8 ∨ Payload c b

/-- `BlockInv` asks of each queued Message that it is `Queueable`. -/
theorem BlockInv.queueable {s : State} (h : BlockInv s) {m : Message} (hm : m ∈ s.queue) : Queueable s.cfg m :=
  ⟨h.queue_wf m hm, h.queue_payload m hm⟩

/-- R44, R55: the Message of a sentinel-free buffer. -/
theorem mkMessage_queueable {c : Config} {buf : List Byte} (h : ∀ b ∈ buf, Payload c b) :
    Queueable c (mkMessage c buf) :=
  ⟨mkMessage_args_length c buf, fun b hb => (mem_mkMessage_bytes hb).imp_right (h b)⟩

theorem emit_blockInv {s : State} (r : Report) (h : BlockInv s) : BlockInv (s.emit r) :=
  ⟨h.legal, emit_bounds r h.bounds, h.rdPtr_lt, h.pb_payload, h.queue_wf, h.queue_payload⟩

theorem openFrame_blockInv {s : State} (h : BlockInv s) : BlockInv s.openFrame :=
  ⟨h.legal, openFrame_bounds h.bounds, h.rdPtr_lt, by simp, h.queue_wf, h.queue_payload⟩

theorem closeFrame_blockInv {s : State} (h : BlockInv s) : BlockInv s.closeFrame :=
  ⟨h.legal, closeFrame_bounds h.bounds, h.rdPtr_lt, by simp, h.queue_wf, h.queue_payload⟩

theorem appendByte_blockInv {s : State} {b : Byte} (h : BlockInv s) (hi : s.inProgress = true)
    (hl : s.partialBuffer.length ≠ s.cfg.P) (hb : Payload s.cfg b) : BlockInv (s.appendByte b) := by
  refine ⟨h.legal, appendByte_bounds b h.bounds hi hl, h.rdPtr_lt, ?_, h.queue_wf, h.queue_payload⟩
  intro x hx
  obtain hx | rfl : x ∈ s.partialBuffer ∨ x = b := by simpa using hx
  · exact h.pb_payload x hx
  · exact hb

/-- A change of the queue and of `rd_ptr` keeps the invariant when it respects INV3 and the range of the pointer and
each Message of the new queue is queueable. -/
theorem setQueue_blockInv {s : State} {q : List Message} {p : Nat} (h : BlockInv s) (hN : q.length ≤ s.cfg.N)
    (hp : p < s.cfg.N) (hq : ∀ m ∈ q, Queueable s.cfg m) : BlockInv { s with queue := q, rdPtr := p } :=
  ⟨h.legal, ⟨h.bounds.inv1, h.bounds.inv2, hN⟩, hp, h.pb_payload, fun m hm => (hq m hm).1, fun m hm => (hq m hm).2⟩

theorem enqueue_blockInv {s : State} {m : Message} (h : BlockInv s) (hq : s.queue.length ≠ s.cfg.N)
    (hm : Queueable s.cfg m) : BlockInv { s with queue := s.queue ++ [m] } := by
  have hN := h.bounds.inv3
  refine setQueue_blockInv h (by simp; omega) h.rdPtr_lt fun x hx => ?_
  obtain hx | rfl : x ∈ s.queue ∨ x = m := by simpa using hx
  · exact h.queueable hx
  · exact hm

/-- R5: a legal block has at least one slot. -/
theorem one_le_N_of_legal {c : Config} (h : c.Legal) : 1 ≤ c.N := by
  obtain ⟨-, -, hN, -⟩ := h
  exact hN

/-- R97: the successor of a pointer is a slot index. -/
theorem nextPtr_lt {c : Config} (h : c.Legal) (p : Nat) : nextPtr c p < c.N :=
  Nat.mod_lt _ (one_le_N_of_legal h)

theorem qpop_blockInv {s : State} (h : BlockInv s) : BlockInv s.qpop.2 := by
  obtain ⟨-, e⟩ | ⟨m, rest, hq, e⟩ := qpop_cases s <;> rw [e]
  · exact h
  · have hN : (m :: rest).length ≤ s.cfg.N := hq ▸ h.bounds.inv3
    exact setQueue_blockInv h (Nat.le_of_succ_le hN) (nextPtr_lt h.legal _)
      fun x hx => h.queueable (hq ▸ List.mem_cons_of_mem m hx)

theorem qclear_blockInv {s : State} (h : BlockInv s) : BlockInv s.qclear :=
  setQueue_blockInv h (Nat.zero_le _) (Nat.lt_of_le_of_lt (Nat.zero_le _) h.rdPtr_lt) (by simp)

/-- R160: `RESET` establishes the invariant from every state with legal constants. -/
theorem resetBlock_blockInv {s : State} (h : s.cfg.Legal) : BlockInv s.resetBlock :=
  ⟨h, resetBlock_bounds s, one_le_N_of_legal h, by simp, by simp, by simp⟩

/-- A byte is appended only in frame, below `P` and as a payload byte; an END enqueues only into a free slot. -/
theorem rx_blockInv (b : Byte) {s : State} (h : BlockInv s) : BlockInv (rx b s) := by
  obtain ⟨-, e⟩ | ⟨-, -, e⟩ | ⟨-, -, -, hq, e⟩ | ⟨-, -, -, -, e⟩ | ⟨hs, hi, he, hl, e⟩ | ⟨-, -, -, -, e⟩ :=
    rx_cases b s <;> rw [e] <;> apply emit_blockInv
  · exact openFrame_blockInv h
  · exact h
  · exact closeFrame_blockInv (enqueue_blockInv h hq (mkMessage_queueable h.pb_payload))
  · exact closeFrame_blockInv h
  · exact appendByte_blockInv h hi hl ⟨hs, he⟩
  · exact h

/-- Every operation but a `QPUSH` of a Message from outside the block keeps the invariant. -/
theorem exec_blockInv {i : Instr} {s t : State} (hi : ∀ m, i ≠ .qpush m) (h : BlockInv s)
    (hexec : exec i s = .next t) : BlockInv t := by
  obtain ⟨b, -, rfl⟩ | ⟨r, -, rfl⟩ | ⟨-, rfl⟩ | ⟨m, rfl, -⟩ | ⟨-, rfl⟩ | ⟨-, rfl⟩ := exec_next_cases hexec
  · exact rx_blockInv b h
  · exact emit_blockInv r h
  · exact emit_blockInv _ (qpop_blockInv h)
  · exact absurd rfl (hi m)
  · exact emit_blockInv _ (qclear_blockInv h)
  · exact emit_blockInv _ (resetBlock_blockInv h.legal)

theorem takeTurn_blockInv {s : State} (h : BlockInv s) : BlockInv (takeTurn s).2 := by
  rw [takeTurn_frame]
  exact ⟨h.legal, ⟨h.bounds.inv1, h.bounds.inv2, h.bounds.inv3⟩, h.rdPtr_lt, h.pb_payload, h.queue_wf,
    h.queue_payload⟩

/-- Settles O29: taking the turn leaves the block, and no turn runs a `QPUSH` of a Message from outside it. -/
theorem stepKeepsInvariant : Obligations.StepKeepsInvariant := by
  intro s t h hstep
  rw [step_legal h.legal] at hstep
  have hturn := takeTurn_blockInv h
  obtain e | ⟨x, i, -, hd, e⟩ := execTurn_cases (takeTurn s).1 (takeTurn s).2 <;> rw [e] at hstep
  · cases hstep
    exact emit_blockInv .nothing hturn
  · exact exec_blockInv (decode_ne_qpush hd) hturn hstep

/-- Settles O28: the reset state is what `RESET` makes of it, and the documented constants are legal. -/
theorem resetStateMeetsInvariant : Obligations.ResetStateMeetsInvariant :=
  resetBlock_blockInv (s := State.reset) (by decide)

end Sys2Proof
end

section
/-! What the hidden state can influence (R21, R23): an operation carries a change of `rd_ptr` and of the last report
along as a change of `rd_ptr` alone, and everything else it writes or reports stays the same. -/

namespace Sys2Proof

open Sys2Proof.Machine Sys2Proof.Laws

/-- A state with another `rd_ptr` and another last report: the states of the same architecture. -/
def withHidden (s : State) (p : Nat) (r : Report) : State := { s with rdPtr := p, report := r }

theorem SameArchitecture.eq_withHidden {s t : State} (h : SameArchitecture s t) :
    t = withHidden s t.rdPtr t.report := by
  obtain ⟨hcfg, hin, hpb, hqueue, hrx, hcmd, hrst, hturns⟩ := h
  rw [withHidden, hcfg, hin, hpb, hqueue, hrx, hcmd, hrst, hturns]

theorem sameArchitecture_withHidden (s : State) (p : Nat) (r : Report) : SameArchitecture s (withHidden s p r) :=
  ⟨rfl, rfl, rfl, rfl, rfl, rfl, rfl, rfl⟩

theorem SameArchitecture.symm {s t : State} (h : SameArchitecture s t) : SameArchitecture t s :=
  ⟨h.cfg.symm, h.inProgress.symm, h.partialBuffer.symm, h.queue.symm, h.rxIn.symm, h.cmdIn.symm, h.rstIn.symm,
    h.turns.symm⟩

theorem takeTurn_withHidden (s : State) (p : Nat) (r : Report) :
    takeTurn (withHidden s p r) = ((takeTurn s).1, withHidden (takeTurn s).2 p r) := by
  obtain ⟨_, _, _, _, _, _, rxIn, cmdIn, rstIn, turns⟩ := s
  cases turns with
  | nil => rfl
  | cons a rest =>
    cases a with
    | producer => cases rxIn <;> rfl
    | consumer => cases cmdIn <;> rfl
    | orchestrator => cases rstIn <;> rfl

theorem rxEnd_withHidden (s : State) (p : Nat) (r : Report) :
    rxEnd (withHidden s p r) = withHidden (rxEnd s) p (rxEnd s).report := by
  by_cases hq : s.queue.length = s.cfg.N
  · rw [rxEnd_full hq, rxEnd_full (s := withHidden s p r) hq]; rfl
  · rw [rxEnd_free hq, rxEnd_free (s := withHidden s p r) hq]; rfl

/-- R77: a payload byte on a full partial buffer. -/
theorem rxData_full {s : State} {b : Byte} (h : s.partialLength = s.cfg.P) :
    rxData s b = s.emit (.received .evOverflow none) :=
  if_pos h

/-- R76: a payload byte with room in the partial buffer. -/
theorem rxData_free {s : State} {b : Byte} (h : s.partialLength ≠ s.cfg.P) :
    rxData s b = (s.appendByte b).emit (.received .evAppend none) :=
  if_neg h

theorem rxData_withHidden (s : State) (b : Byte) (p : Nat) (r : Report) :
    rxData (withHidden s p r) b = withHidden (rxData s b) p (rxData s b).report := by
  by_cases hl : s.partialLength = s.cfg.P
  · rw [rxData_full hl, rxData_full (s := withHidden s p r) hl]; rfl
  · rw [rxData_free hl, rxData_free (s := withHidden s p r) hl]; rfl

/-- No `RX` reads or writes `rd_ptr`, or reads the last report. -/
theorem rx_withHidden (b : Byte) (s : State) (p : Nat) (r : Report) :
    rx b (withHidden s p r) = withHidden (rx b s) p (rx b s).report := by
  by_cases hs : b = s.cfg.startByte
  · rw [rx_start hs, rx_start (s := withHidden s p r) hs]; rfl
  cases hi : s.inProgress with
  | false => rw [rx_desync hs hi, rx_desync (s := withHidden s p r) hs hi]; rfl
  | true =>
    by_cases he : b = s.cfg.endByte
    · rw [rx_end hs hi he, rx_end (s := withHidden s p r) hs hi he, rxEnd_withHidden]
    · rw [rx_data hs hi he, rx_data (s := withHidden s p r) hs hi he, rxData_withHidden]

theorem qpush_withHidden (m : Message) (s : State) (p : Nat) (r : Report) :
    (withHidden s p r).qpush m = ((s.qpush m).1, withHidden (s.qpush m).2 p r) := by
  by_cases hq : s.queue.length = s.cfg.N
  · rw [qpush_full m hq, qpush_full (s := withHidden s p r) m hq]
  · rw [qpush_free m hq, qpush_free (s := withHidden s p r) m hq]; rfl

/-- `POP` moves `rd_ptr` on, and reads the queue alone. -/
theorem qpop_withHidden (s : State) (p : Nat) (r : Report) :
    ∃ q, (withHidden s p r).qpop = (s.qpop.1, withHidden s.qpop.2 q r) := by
  obtain ⟨hq, e⟩ | ⟨m, rest, hq, e⟩ := qpop_cases s
  · exact ⟨p, by rw [e, qpop_empty (s := withHidden s p r) hq]⟩
  · exact ⟨nextPtr s.cfg p, by rw [e, qpop_cons (s := withHidden s p r) hq]; rfl⟩

/-- An operation carries a change of the hidden state along as a change of `rd_ptr` alone. -/
theorem exec_withHidden {i : Instr} {s s' : State} (h : exec i s = .next s') (p : Nat) (r : Report) :
    ∃ q, exec i (withHidden s p r) = .next (withHidden s' q s'.report) := by
  obtain ⟨b, hi, rfl⟩ | ⟨r', hi, rfl⟩ | ⟨rfl, rfl⟩ | ⟨m, rfl, rfl⟩ | ⟨rfl, rfl⟩ | ⟨rfl, rfl⟩ := exec_next_cases h
  · refine ⟨p, ?_⟩
    rw [← rx_withHidden b s p r]
    obtain ⟨rfl, rfl⟩ | ⟨rfl, rfl⟩ | rfl := hi <;> rfl
  · refine ⟨p, ?_⟩
    obtain ⟨rfl, rfl⟩ | ⟨rfl, rfl⟩ | ⟨rfl, rfl⟩ := hi <;> rfl
  · obtain ⟨q, e⟩ := qpop_withHidden s p r
    exact ⟨q, by simp only [exec, execPop, e]; rfl⟩
  · exact ⟨p, by simp only [exec, execQpush, qpush_withHidden]; rfl⟩
  · exact ⟨0, rfl⟩
  · exact ⟨0, rfl⟩

theorem execTurn_withHidden {w : Option PortWord} {s s' : State} (h : execTurn w s = .next s') (p : Nat)
    (r : Report) : ∃ q, execTurn w (withHidden s p r) = .next (withHidden s' q s'.report) := by
  cases w with
  | none => cases h; exact ⟨p, rfl⟩
  | some x =>
    rw [execTurn] at h ⊢
    cases hd : decode s.cfg x with
    | ok i =>
      rw [execWord_ok hd] at h
      rw [execWord_ok (s := withHidden s p r) hd]
      exact exec_withHidden h p r
    | error e =>
      rw [execWord_error hd] at h
      cases h
      exact ⟨p, execWord_error (s := withHidden s p r) hd⟩

/-- Of two states of one architecture, a step of one is matched by a step of the other, with the same report. -/
theorem step_sameArchitecture {s t s' : State} (h : SameArchitecture s t) (hs : step s = .next s') :
    ∃ t', step t = .next t' ∧ SameArchitecture s' t' ∧ s'.report = t'.report := by
  rw [h.eq_withHidden]
  by_cases hc : s.cfg.Legal
  · rw [step_legal hc] at hs
    obtain ⟨q, e⟩ := execTurn_withHidden hs t.rdPtr t.report
    refine ⟨_, ?_, sameArchitecture_withHidden s' q s'.report, rfl⟩
    rw [step_legal (s := withHidden s t.rdPtr t.report) hc, takeTurn_withHidden, e]
  · rw [step_illegal hc] at hs
    cases hs

theorem stepReports_succ_next {k : Nat} {s t : State} (h : step s = .next t) :
    stepReports (k + 1) s = t.report :: stepReports k t := by
  simp [stepReports, h]

theorem stepReports_succ_refused {k : Nat} {s : State} {r : Refusal} (h : step s = .refused r) :
    stepReports (k + 1) s = [] := by
  simp [stepReports, h]

/-- States of one architecture report the same in every run, which ends at the same step. -/
theorem stepReports_sameArchitecture (k : Nat) :
    ∀ s t : State, SameArchitecture s t → stepReports k s = stepReports k t := by
  induction k with
  | zero => exact fun _ _ _ => rfl
  | succ k ih =>
    intro s t h
    cases hs : step s with
    | next s' =>
      obtain ⟨t', ht, hsame, hreport⟩ := step_sameArchitecture h hs
      rw [stepReports_succ_next hs, stepReports_succ_next ht, hreport, ih s' t' hsame]
    | fault r => cases r
    | refused r =>
      cases ht : step t with
      | next t' =>
        obtain ⟨s', hs', -⟩ := step_sameArchitecture h.symm ht
        rw [hs] at hs'
        cases hs'
      | fault r' => cases r'
      | refused r' => rw [stepReports_succ_refused hs, stepReports_succ_refused ht]

/-- Settles O46: a step relates states of one architecture again, and reports the same from both. -/
theorem hiddenStateIsUnobservable : Obligations.HiddenStateIsUnobservable := by
  refine ⟨stepReports_sameArchitecture, fun s t s' h hs => ?_⟩
  obtain ⟨t', ht, hsame, -⟩ := step_sameArchitecture h hs
  exact ⟨t', ht, hsame⟩

end Sys2Proof
end

section
/-! The bounds of the two stores under every operation (INV1 to INV3), how an operation can change the queue, and the
values after `RESET`. -/

namespace Sys2Proof

open Sys2Proof.Machine Sys2Proof.Laws

theorem rx_bounds (b : Byte) {s : State} (h : BoundInv s) : BoundInv (rx b s) := by
  obtain ⟨-, e⟩ | ⟨-, -, e⟩ | ⟨-, -, -, hq, e⟩ | ⟨-, -, -, -, e⟩ | ⟨-, hi, -, hl, e⟩ | ⟨-, -, -, -, e⟩ :=
    rx_cases b s <;> rw [e] <;> apply emit_bounds
  · exact openFrame_bounds h
  · exact h
  · have hpush := qpush_bounds (mkMessage s.cfg s.partialBuffer) h
    rw [qpush_free _ hq] at hpush
    exact closeFrame_bounds hpush
  · exact closeFrame_bounds h
  · exact appendByte_bounds b h hi hl
  · exact h

theorem exec_bounds {i : Instr} {s t : State} (h : BoundInv s) (hexec : exec i s = .next t) : BoundInv t := by
  obtain ⟨b, -, rfl⟩ | ⟨r, -, rfl⟩ | ⟨-, rfl⟩ | ⟨m, -, rfl⟩ | ⟨-, rfl⟩ | ⟨-, rfl⟩ := exec_next_cases hexec
  · exact rx_bounds b h
  · exact emit_bounds r h
  · exact emit_bounds _ (qpop_bounds h)
  · exact emit_bounds _ (qpush_bounds m h)
  · exact emit_bounds _ (qclear_bounds h)
  · exact emit_bounds _ (resetBlock_bounds s)

theorem execAll_cons_next {i : Instr} {is : List Instr} {s u : State} :
    execAll (i :: is) s = .next u ↔ ∃ t, exec i s = .next t ∧ execAll is t = .next u :=
  andThen_next

theorem execAll_bounds {is : List Instr} {s t : State} (h : BoundInv s) (hrun : execAll is s = .next t) :
    BoundInv t := by
  induction is generalizing s with
  | nil => cases hrun; exact h
  | cons i is ih =>
    obtain ⟨u, hi, his⟩ := execAll_cons_next.1 hrun
    exact ih (exec_bounds h hi) his

/-- `RESET` establishes the bounds from every state. -/
theorem exec_reset_bounds {s t : State} (h : exec .reset s = .next t) : BoundInv t := by
  cases h
  exact emit_bounds _ (resetBlock_bounds s)

theorem exec_startFrame (s : State) : exec .startFrame s = .next (s.openFrame.emit (.received .evStart none)) :=
  congrArg _ (rx_start rfl)

/-- Settles O27: `RESET` establishes the bounds and every operation keeps them; a START right after it is in frame
with nothing kept. -/
theorem operationsKeepBounds : Obligations.OperationsKeepBounds := by
  refine ⟨fun i s t => exec_bounds, fun is s t hrun => ?_, fun s => ?_⟩
  · obtain ⟨u, hreset, his⟩ := execAll_cons_next.1 hrun
    exact execAll_bounds (exec_reset_bounds hreset) his
  · have hstart := exec_startFrame (s.resetBlock.emit .nothing)
    refine ⟨_, execAll_cons_next.2 ⟨_, rfl, execAll_cons_next.2 ⟨_, hstart, rfl⟩⟩, ?_, rfl, rfl⟩
    exact exec_bounds (exec_reset_bounds (s := s) rfl) hstart

/-- R39: a byte leaves the queue, unless it is the END that enqueues the Message of the frame. -/
theorem rx_queue_cases (b : Byte) (s : State) :
    (rx b s).queue = s.queue ∨
      (b ≠ s.cfg.startByte ∧ b = s.cfg.endByte ∧
        (rx b s).queue = s.queue ++ [mkMessage s.cfg s.partialBuffer]) := by
  obtain ⟨-, e⟩ | ⟨-, -, e⟩ | ⟨hs, -, he, -, e⟩ | ⟨-, -, -, -, e⟩ | ⟨-, -, -, -, e⟩ | ⟨-, -, -, -, e⟩ :=
    rx_cases b s
  case inr.inr.inl => exact .inr ⟨hs, he, by rw [e]; rfl⟩
  all_goals exact .inl (by rw [e]; rfl)

/-- Settles O35: of the bytes only END enqueues, and a well-formed DATA byte is no END; `POP` removes the Message it
returns. -/
theorem queueChangesOnlyAtItsEnds : Obligations.QueueChangesOnlyAtItsEnds := by
  intro i s t hwf h
  obtain ⟨b, hi, rfl⟩ | ⟨r, -, rfl⟩ | ⟨rfl, rfl⟩ | ⟨m, rfl, rfl⟩ | ⟨rfl, rfl⟩ | ⟨rfl, rfl⟩ := exec_next_cases h
  · obtain hq | ⟨hs, he, hq⟩ := rx_queue_cases b s
    · exact .inl hq
    · obtain ⟨-, rfl⟩ | ⟨rfl, -⟩ | rfl := hi
      · exact absurd rfl hs
      · exact .inr (.inl ⟨rfl, hq⟩)
      · simp [Instr.wf, he] at hwf
  · exact .inl rfl
  · obtain ⟨-, e⟩ | ⟨m, rest, hq, e⟩ := qpop_cases s <;> rw [e]
    · exact .inl rfl
    · exact .inr (.inr (.inr (.inl ⟨m, rfl, hq, rfl⟩)))
  · obtain ⟨-, e⟩ | ⟨-, e⟩ := qpush_cases s m <;> rw [e]
    · exact .inl rfl
    · exact .inr (.inr (.inl ⟨m, rfl, rfl⟩))
  · exact .inr (.inr (.inr (.inr ⟨.inl rfl, rfl⟩)))
  · exact .inr (.inr (.inr (.inr ⟨.inr rfl, rfl⟩)))

/-- R25: the machine's reset state is, like the answer of every `RESET`, a reset block that reports nothing. -/
theorem eq_resetBlock_of_reset {s : State} (h : s = State.reset ∨ ∃ s' : State, exec .reset s' = .next s) :
    ∃ s' : State, s = s'.resetBlock.emit .nothing := by
  obtain rfl | ⟨s', hexec⟩ := h
  · exact ⟨State.reset, rfl⟩
  · cases hexec
    exact ⟨s', rfl⟩

/-- R93, R25: an empty queue of at least one slot is not full. -/
theorem full_eq_false_of_queue_nil {s : State} (hc : s.cfg.Legal) (hq : s.queue = []) : s.full = false := by
  have hN := one_le_N_of_legal hc
  rw [State.full, hq, List.length_nil]
  exact decide_eq_false (by omega)

/-- Settles O14: the fields are those `RESET` writes, and the views follow from them. -/
theorem resetValues : Obligations.ResetValues := by
  refine ⟨fun s hc hs => ?_, fun c ui => startSession_synackComplete c ui _⟩
  obtain ⟨s', rfl⟩ := eq_resetBlock_of_reset hs
  have hwr : (s'.resetBlock.emit .nothing).wrPtr = 0 := Nat.zero_mod _
  exact ⟨rfl, rfl, rfl, rfl, rfl, hwr, rfl, rfl, full_eq_false_of_queue_nil hc rfl, rfl, rfl⟩

end Sys2Proof
end

section
/-! What a turn delivers and what the step then is (R36, R37), and which steps are refused (R47, R60, R177). -/

namespace Sys2Proof

open Sys2Proof.Machine Sys2Proof.Laws

theorem takeTurn_rx {s : State} {ts : List Agent} {b : Byte} {bs : List Byte} (ht : s.turns = .producer :: ts)
    (hw : s.rxIn = b :: bs) : takeTurn s = (some (.rx b), { s with turns := ts, rxIn := bs }) := by
  simp [takeTurn, takeFrom, ht, hw]

theorem takeTurn_rx_nil {s : State} {ts : List Agent} (ht : s.turns = .producer :: ts) (hw : s.rxIn = []) :
    takeTurn s = (none, { s with turns := ts }) := by
  simp [takeTurn, takeFrom, ht, hw]

theorem takeTurn_request {s : State} {ts : List Agent} {r : ConsumerRequest} {rs : List ConsumerRequest}
    (ht : s.turns = .consumer :: ts) (hw : s.cmdIn = r :: rs) :
    takeTurn s = (some (.request r), { s with turns := ts, cmdIn := rs }) := by
  simp [takeTurn, takeFrom, ht, hw]

theorem takeTurn_request_nil {s : State} {ts : List Agent} (ht : s.turns = .consumer :: ts) (hw : s.cmdIn = []) :
    takeTurn s = (none, { s with turns := ts }) := by
  simp [takeTurn, takeFrom, ht, hw]

theorem takeTurn_rst {s : State} {ts : List Agent} {l : BitVec 1} {ls : List (BitVec 1)}
    (ht : s.turns = .orchestrator :: ts) (hw : s.rstIn = l :: ls) :
    takeTurn s = (some (.rst l), { s with turns := ts, rstIn := ls }) := by
  simp [takeTurn, takeFrom, ht, hw]

theorem takeTurn_rst_nil {s : State} {ts : List Agent} (ht : s.turns = .orchestrator :: ts) (hw : s.rstIn = []) :
    takeTurn s = (none, { s with turns := ts }) := by
  simp [takeTurn, takeFrom, ht, hw]

theorem takeTurn_nil {s : State} (ht : s.turns = []) : takeTurn s = (none, s) := by
  simp [takeTurn, ht]

theorem step_of_takeTurn {s u : State} {w : Option PortWord} (hc : s.cfg.Legal) (h : takeTurn s = (w, u)) :
    step s = execTurn w u := by
  rw [step_legal hc, h]

/-- Settles O22: the turn delivers the agent's oldest word, and the word decodes to the operation named. -/
theorem stepRunsDecodedOperation : Obligations.StepRunsDecodedOperation := by
  refine fun s ts hc => ⟨fun b bs ht hw => ?_, fun r rs ht hw => ?_, fun ls ht hw => ?_⟩
  · exact step_of_takeTurn hc (takeTurn_rx ht hw)
  · exact step_of_takeTurn hc (takeTurn_request ht hw)
  · exact step_of_takeTurn hc (takeTurn_rst ht hw)

/-- Settles O23: without a word, or with `rst` at 0, the turn only reports nothing; a placed word is delivered
first. -/
theorem stepWithoutWordAndPlacedWord : Obligations.StepWithoutWordAndPlacedWord := by
  refine fun s hc => ⟨fun ht => ?_, fun ts ht hw => ?_, fun ts ht hw => ?_, fun ts ht hw => ?_, fun ts ls ht hw => ?_,
    fun w => ?_, fun w => ?_, ?_⟩
  · exact step_of_takeTurn hc (takeTurn_nil ht)
  · exact step_of_takeTurn hc (takeTurn_rx_nil ht hw)
  · exact step_of_takeTurn hc (takeTurn_request_nil ht hw)
  · exact step_of_takeTurn hc (takeTurn_rst_nil ht hw)
  · exact step_of_takeTurn hc (takeTurn_rst ht hw)
  · exact step_pushWord hc (.rx (BitVec.ofNat 8 w))
  · exact step_pushWord hc (.request (.command (BitVec.ofNat 2 w)))
  · exact step_pushWord hc (.rst 1#1)

/-- Every operation but the reserved command answers a next state. -/
theorem exists_exec_next {i : Instr} (h : i ≠ .reservedCmd3) (s : State) : ∃ t, exec i s = .next t := by
  cases i with
  | reservedCmd3 => exact absurd rfl h
  | _ => exact ⟨_, rfl⟩

theorem decodeCommand_eq_reserved : ∀ w : BitVec 2, decodeCommand w = .reservedCmd3 → w = 0b11#2 := by decide

/-- R60: the one word that decodes to the reserved operation. -/
theorem eq_of_decode_eq_reserved {c : Config} {x : PortWord} (h : decode c x = .ok .reservedCmd3) :
    x = .request (.command 0b11#2) := by
  cases x with
  | rx b =>
    obtain ⟨-, e⟩ | ⟨-, -, e⟩ | ⟨-, -, e⟩ := decodeByte_cases c b <;> simp [decode, e] at h
  | request r =>
    cases r with
    | command w => rw [decodeCommand_eq_reserved w (Except.ok.inj h)]
    | readLen => cases h
    | readCapacity => cases h
  | rst level =>
    simp only [decode] at h
    split_ifs at h
    cases h

/-- A turn answers a next state unless it delivers the reserved command. -/
theorem exists_execTurn_next {w : Option PortWord} (h : w ≠ some (.request (.command 0b11#2))) (s : State) :
    ∃ t, execTurn w s = .next t := by
  obtain e | ⟨x, i, rfl, hd, e⟩ := execTurn_cases w s <;> rw [e]
  · exact ⟨_, rfl⟩
  · refine exists_exec_next (fun hi => h ?_) s
    subst hi
    rw [eq_of_decode_eq_reserved hd]

/-- Settles O26: only the word of the reserved command decodes to an operation that answers no next state. -/
theorem stepIsNeverStuck : Obligations.StepIsNeverStuck := by
  refine fun s => ⟨fun hc => ?_, step_illegal⟩
  rw [step_legal hc]
  by_cases hw : (takeTurn s).1 = some (.request (.command 0b11#2))
  · exact .inl ⟨by rw [hw]; rfl, hw⟩
  · exact .inr ⟨exists_execTurn_next hw _, hw⟩

end Sys2Proof
end

section
/-! What an operation depends on: the decoder's part of an `RX` reads and writes the Decoder State alone unless the byte
closes a frame, and a consumer command reads and writes the queue alone (R38, R41). -/

namespace Sys2Proof

open Sys2Proof.Machine Sys2Proof.Laws

/-- R74, R75: `b` is an END that closes a frame of `s`; the one byte that reaches the queue. -/
def ClosesFrame (b : Byte) (s : State) : Prop :=
  b ≠ s.cfg.startByte ∧ b = s.cfg.endByte ∧ s.inProgress = true

theorem rx_closesFrame {b : Byte} {s : State} (h : ClosesFrame b s) : rx b s = rxEnd s := by
  obtain ⟨hs, he, hi⟩ := h
  exact rx_end hs hi he

/-- The two states agree in the constants and the Decoder State (R10). -/
structure SameDecoder (s t : State) : Prop where
  cfg : t.cfg = s.cfg
  inProgress : t.inProgress = s.inProgress
  partialBuffer : t.partialBuffer = s.partialBuffer

/-- The state with another Decoder State and another last report. -/
def withDecoder (s : State) (f : Bool) (buf : List Byte) (r : Report) : State :=
  { s with inProgress := f, partialBuffer := buf, report := r }

theorem emit_eq_withDecoder {s t : State} (h : SameDecoder s t) (r : Report) :
    t.emit r = withDecoder t s.inProgress s.partialBuffer r := by
  rw [← h.inProgress, ← h.partialBuffer]; rfl

/-- A byte that closes no frame does to the Decoder State, and reports, what the Decoder State alone decides. -/
theorem rx_local {b : Byte} {s : State} (h : ¬ ClosesFrame b s) :
    ∃ f buf r, ∀ t, SameDecoder s t → rx b t = withDecoder t f buf r := by
  by_cases hs : b = s.cfg.startByte
  · exact ⟨true, [], .received .evStart none, fun t ht => rx_start (ht.cfg ▸ hs)⟩
  cases hi : s.inProgress with
  | false =>
    refine ⟨s.inProgress, s.partialBuffer, .received .evDesync none, fun t ht => ?_⟩
    rw [rx_desync (ht.cfg ▸ hs) (ht.inProgress.trans hi), ← emit_eq_withDecoder ht]; rfl
  | true =>
    have he : b ≠ s.cfg.endByte := fun he => h ⟨hs, he, hi⟩
    have hdata : ∀ t, SameDecoder s t → rx b t = rxData t b := fun t ht =>
      rx_data (ht.cfg ▸ hs) (ht.inProgress.trans hi) (ht.cfg ▸ he)
    by_cases hl : s.partialLength = s.cfg.P
    · refine ⟨s.inProgress, s.partialBuffer, .received .evOverflow none, fun t ht => ?_⟩
      have hlt : t.partialLength = t.cfg.P := by rw [State.partialLength, ht.partialBuffer, ht.cfg]; exact hl
      rw [hdata t ht, rxData_full hlt, emit_eq_withDecoder ht]
    · refine ⟨s.inProgress, s.partialBuffer ++ [b], .received .evAppend none, fun t ht => ?_⟩
      have hlt : t.partialLength ≠ t.cfg.P := by rw [State.partialLength, ht.partialBuffer, ht.cfg]; exact hl
      rw [hdata t ht, rxData_free hlt, ← ht.inProgress, ← ht.partialBuffer]; rfl

/-- The two states agree in the constants and the queue with its pointer (R15, R17). -/
structure SameQueue (s t : State) : Prop where
  cfg : t.cfg = s.cfg
  queue : t.queue = s.queue
  rdPtr : t.rdPtr = s.rdPtr

/-- The state with another queue and another last report. -/
def withQueue (s : State) (q : List Message) (p : Nat) (r : Report) : State :=
  { s with queue := q, rdPtr := p, report := r }

theorem emit_eq_withQueue {s t : State} (h : SameQueue s t) (r : Report) :
    t.emit r = withQueue t s.queue s.rdPtr r := by
  rw [← h.queue, ← h.rdPtr]; rfl

theorem decodeCommand_cases :
    ∀ w : BitVec 2, w ≠ 0b11#2 → w = 0b00#2 ∨ w = 0b01#2 ∨ w = 0b10#2 := by decide

/-- A consumer command does to the queue, and reports, what the queue alone decides. -/
theorem exec_decodeCommand_local {w : BitVec 2} (h : w ≠ 0b11#2) (s : State) :
    ∃ q p r, ∀ t, SameQueue s t → exec (decodeCommand w) t = .next (withQueue t q p r) := by
  obtain rfl | rfl | rfl := decodeCommand_cases w h
  · exact ⟨_, _, .nothing, fun t ht => congrArg _ (emit_eq_withQueue ht .nothing)⟩
  · cases hq : s.queue with
    | nil =>
      exact ⟨_, _, .popped none, fun t ht =>
        (exec_pop_empty (ht.queue.trans hq)).trans (congrArg _ (emit_eq_withQueue ht _))⟩
    | cons m rest =>
      refine ⟨rest, nextPtr s.cfg s.rdPtr, .popped (some m), fun t ht => ?_⟩
      rw [← ht.cfg, ← ht.rdPtr]
      exact exec_pop_cons (ht.queue.trans hq)
  · exact ⟨[], 0, .nothing, fun t _ => rfl⟩

end Sys2Proof
end

section
/-! What the agents have yet to do (R36, R37): no operation reads or writes it, a turn takes at most one word of it,
and so a run is the words of its schedule, one after another. -/

namespace Sys2Proof

open Sys2Proof.Machine Sys2Proof.Laws

/-- What the three agents have yet to put to the block, and in which order. -/
structure Pending where
  rxIn : List Byte
  cmdIn : List ConsumerRequest
  rstIn : List (BitVec 1)
  turns : List Agent

def pendingOf (s : State) : Pending := ⟨s.rxIn, s.cmdIn, s.rstIn, s.turns⟩

/-- The block of `s` with other work pending. -/
def withPending (s : State) (p : Pending) : State :=
  { s with rxIn := p.rxIn, cmdIn := p.cmdIn, rstIn := p.rstIn, turns := p.turns }

def Pending.schedule (p : Pending) : List (Option PortWord) :=
  Machine.schedule p.turns p.rxIn p.cmdIn p.rstIn

theorem withPending_pendingOf (s : State) : withPending s (pendingOf s) = s := rfl

/-- What is pending is read by no byte (R18). -/
theorem rx_withPending (b : Byte) (s : State) (p : Pending) : rx b (withPending s p) = withPending (rx b s) p := by
  by_cases h : ClosesFrame b s
  · rw [rx_closesFrame h, rx_closesFrame (s := withPending s p) h]
    by_cases hq : s.queue.length = s.cfg.N
    · rw [rxEnd_full hq, rxEnd_full (s := withPending s p) hq]; rfl
    · rw [rxEnd_free hq, rxEnd_free (s := withPending s p) hq]; rfl
  · obtain ⟨f, buf, r, hrx⟩ := rx_local h
    rw [hrx s ⟨rfl, rfl, rfl⟩, hrx (withPending s p) ⟨rfl, rfl, rfl⟩]; rfl

theorem qpush_withPending (m : Message) (s : State) (p : Pending) :
    (withPending s p).qpush m = ((s.qpush m).1, withPending (s.qpush m).2 p) := by
  by_cases hq : s.queue.length = s.cfg.N
  · rw [qpush_full m hq, qpush_full (s := withPending s p) m hq]
  · rw [qpush_free m hq, qpush_free (s := withPending s p) m hq]; rfl

theorem qpop_withPending (s : State) (p : Pending) :
    (withPending s p).qpop = (s.qpop.1, withPending s.qpop.2 p) := by
  obtain ⟨hq, e⟩ | ⟨m, rest, hq, e⟩ := qpop_cases s
  · rw [e, qpop_empty (s := withPending s p) hq]
  · rw [e, qpop_cons (s := withPending s p) hq]; rfl

/-- The outcome with other work pending in the state it answers. -/
def outcomeWithPending (o : Host.Outcome State Fault Refusal) (p : Pending) : Host.Outcome State Fault Refusal :=
  andThen o fun t => .next (withPending t p)

theorem exec_withPending (i : Instr) (s : State) (p : Pending) :
    exec i (withPending s p) = outcomeWithPending (exec i s) p := by
  cases i with
  | startFrame => exact congrArg Host.Outcome.next (rx_withPending _ s p)
  | endFrame => exact congrArg Host.Outcome.next (rx_withPending _ s p)
  | data b => exact congrArg Host.Outcome.next (rx_withPending b s p)
  | pop => simp only [exec, execPop, qpop_withPending]; rfl
  | qpush m => simp only [exec, execQpush, qpush_withPending]; rfl
  | _ => rfl

theorem execTurn_withPending (w : Option PortWord) (s : State) (p : Pending) :
    execTurn w (withPending s p) = outcomeWithPending (execTurn w s) p := by
  cases w with
  | none => rfl
  | some x =>
    rw [execTurn, execTurn]
    cases hd : decode s.cfg x with
    | ok i => rw [execWord_ok hd, execWord_ok (s := withPending s p) hd, exec_withPending]
    | error e => rw [execWord_error hd, execWord_error (s := withPending s p) hd]; rfl

theorem andThen_assoc {σ τ υ : Type} (o : Host.Outcome σ Fault Refusal) (f : σ → Host.Outcome τ Fault Refusal)
    (g : τ → Host.Outcome υ Fault Refusal) : andThen (andThen o f) g = andThen o fun t => andThen (f t) g := by
  cases o <;> rfl

theorem execTurns_withPending (ws : List (Option PortWord)) (s : State) (p : Pending) :
    execTurns ws (withPending s p) = outcomeWithPending (execTurns ws s) p := by
  induction ws generalizing s with
  | nil => rfl
  | cons w ws ih =>
    simp only [execTurns, execTurn_withPending, outcomeWithPending, andThen_assoc] at ih ⊢
    exact congrArg _ (funext ih)

/-- R5: no operation writes the constants. -/
theorem exec_cfg {i : Instr} {s t : State} (h : exec i s = .next t) : t.cfg = s.cfg := by
  obtain ⟨b, -, rfl⟩ | ⟨r, -, rfl⟩ | ⟨-, rfl⟩ | ⟨m, -, rfl⟩ | ⟨-, rfl⟩ | ⟨-, rfl⟩ := exec_next_cases h
  · exact rx_cfg b s
  · rfl
  · obtain ⟨-, e⟩ | ⟨m, rest, -, e⟩ := qpop_cases s <;> rw [e] <;> rfl
  · obtain ⟨-, e⟩ | ⟨-, e⟩ := qpush_cases s m <;> rw [e] <;> rfl
  · rfl
  · rfl

theorem execTurn_cfg {w : Option PortWord} {s t : State} (h : execTurn w s = .next t) : t.cfg = s.cfg := by
  obtain e | ⟨x, i, -, -, e⟩ := execTurn_cases w s <;> rw [e] at h
  · cases h; rfl
  · exact exec_cfg h

/-- R37: the words delivered and those still pending are, in this order, those that were pending. -/
structure Delivers (p : Pending) (ws : List (Option PortWord)) (q : Pending) : Prop where
  bytes : ws.filterMap turnByte ++ q.rxIn = p.rxIn
  requests : ws.filterMap turnRequest ++ q.cmdIn = p.cmdIn
  levels : ws.filterMap turnLevel ++ q.rstIn = p.rstIn

theorem Delivers.cons {p p' q : Pending} {w : Option PortWord} {ws : List (Option PortWord)}
    (hw : Delivers p [w] p') (hws : Delivers p' ws q) : Delivers p (w :: ws) q := by
  obtain ⟨hb, hr, hl⟩ := hw
  obtain ⟨hbs, hrs, hls⟩ := hws
  rw [← List.singleton_append]
  constructor
  · rw [List.filterMap_append, List.append_assoc, hbs, hb]
  · rw [List.filterMap_append, List.append_assoc, hrs, hr]
  · rw [List.filterMap_append, List.append_assoc, hls, hl]

/-- The first turn of a schedule: the word it delivers is the first of the schedule, and the rest is the schedule of
what is then pending. -/
theorem takeTurn_schedule (p : Pending) {a : Agent} {ts : List Agent} (h : p.turns = a :: ts) :
    ∃ (w : Option PortWord) (p' : Pending), p'.turns = ts ∧ p.schedule = w :: p'.schedule ∧ Delivers p [w] p' ∧
      ∀ s, takeTurn (withPending s p) = (w, withPending s p') := by
  obtain ⟨bs, rs, ls, _⟩ := p
  cases h
  cases a with
  | producer => cases bs <;> exact ⟨_, ⟨_, rs, ls, ts⟩, rfl, rfl, ⟨rfl, rfl, rfl⟩, fun _ => rfl⟩
  | consumer => cases rs <;> exact ⟨_, ⟨bs, _, ls, ts⟩, rfl, rfl, ⟨rfl, rfl, rfl⟩, fun _ => rfl⟩
  | orchestrator => cases ls <;> exact ⟨_, ⟨bs, rs, _, ts⟩, rfl, rfl, ⟨rfl, rfl, rfl⟩, fun _ => rfl⟩

theorem run_succ_of_next {M : Host.Core} {s t : M.State} (h : M.step s = .next t) (k : Nat) :
    M.run (k + 1) s = M.run k t := by
  simp [Host.Core.run, h]

theorem run_succ_of_refused {M : Host.Core} {s : M.State} {r : M.Refusal} (h : M.step s = .refused r) (k : Nat) :
    M.run (k + 1) s = .refused r := by
  simp [Host.Core.run, h]

theorem execTurns_cons_of_next {w : Option PortWord} {s t : State} (h : execTurn w s = .next t)
    (ws : List (Option PortWord)) : execTurns (w :: ws) s = execTurns ws t := by
  rw [execTurns, h, andThen]

theorem execTurns_cons_of_refused {w : Option PortWord} {s : State} {r : Refusal} (h : execTurn w s = .refused r)
    (ws : List (Option PortWord)) : execTurns (w :: ws) s = .refused r := by
  rw [execTurns, h, andThen]

/-- A run over all turns is the words of its schedule, one after another; what it leaves pending was not delivered. -/
theorem run_withPending (ts : List Agent) :
    ∀ p : Pending, p.turns = ts → ∃ q : Pending, q.turns = [] ∧ Delivers p p.schedule q ∧
      ∀ s : State, s.cfg.Legal →
        core.run ts.length (withPending s p) = outcomeWithPending (execTurns p.schedule s) q := by
  induction ts with
  | nil =>
    rintro ⟨bs, rs, ls, _⟩ rfl
    exact ⟨_, rfl, ⟨rfl, rfl, rfl⟩, fun _ _ => rfl⟩
  | cons a ts ih =>
    intro p hp
    obtain ⟨w, p', hp', hschedule, hw, hturn⟩ := takeTurn_schedule p hp
    obtain ⟨q, hq, hws, hrun⟩ := ih p' hp'
    refine ⟨q, hq, hschedule ▸ hw.cons hws, fun s hc => ?_⟩
    have hstep : step (withPending s p) = outcomeWithPending (execTurn w s) p' :=
      (step_of_takeTurn (s := withPending s p) hc (hturn s)).trans (execTurn_withPending w s p')
    rw [hschedule]
    cases hexec : execTurn w s with
    | next t =>
      rw [hexec] at hstep
      rw [execTurns_cons_of_next hexec]
      exact (run_succ_of_next (M := core) hstep _).trans (hrun t (execTurn_cfg hexec ▸ hc))
    | fault r => cases r
    | refused r =>
      rw [hexec] at hstep
      rw [execTurns_cons_of_refused hexec]
      exact run_succ_of_refused (M := core) hstep _

theorem outcomeWithPending_next {o : Host.Outcome State Fault Refusal} {p : Pending} {t : State} :
    outcomeWithPending o p = .next t ↔ ∃ u, o = .next u ∧ withPending u p = t := by
  simp [outcomeWithPending, andThen_next]

theorem outcomeWithPending_refused {o : Host.Outcome State Fault Refusal} {p : Pending} {r : Refusal} :
    outcomeWithPending o p = .refused r ↔ o = .refused r := by
  cases o <;> simp [outcomeWithPending, andThen]

/-- Settles O24: the state of the run is that of its schedule's words but for what is pending, which is what the
schedule did not deliver. -/
theorem runIsOneTotalOrder : Obligations.RunIsOneTotalOrder := by
  intro s hc
  obtain ⟨q, hq, ⟨hbytes, hrequests, hlevels⟩, hrun⟩ := run_withPending s.turns (pendingOf s) rfl
  have hs : core.run s.turns.length s = outcomeWithPending (execTurns (pendingOf s).schedule s) q := hrun s hc
  refine ⟨fun t ht => ?_, fun r => ?_⟩
  · obtain ⟨u, hu, rfl⟩ := outcomeWithPending_next.1 (hs.symm.trans ht)
    exact ⟨u, hu, by simp only [withPending, hq], hbytes, hrequests, hlevels⟩
  · rw [hs]
    exact outcomeWithPending_refused

/-- Words put before a block with nothing pending are pending at their agents' ports, in their order. -/
theorem withStimulus_eq (s : State) (ws : List PortWord) (ht : s.turns = []) (hb : s.rxIn = []) (hr : s.cmdIn = [])
    (hl : s.rstIn = []) :
    s.withStimulus ws = withPending s
      { rxIn := ws.filterMap fun w => turnByte (some w)
        cmdIn := ws.filterMap fun w => turnRequest (some w)
        rstIn := ws.filterMap fun w => turnLevel (some w)
        turns := ws.map PortWord.agent } := by
  induction ws with
  | nil => rw [← withPending_pendingOf s, pendingOf, ht, hb, hr, hl]; rfl
  | cons w ws ih => rw [State.withStimulus, ih]; cases w <;> rfl

theorem schedule_agents (ws : List PortWord) :
    schedule (ws.map PortWord.agent) (ws.filterMap fun w => turnByte (some w))
      (ws.filterMap fun w => turnRequest (some w)) (ws.filterMap fun w => turnLevel (some w)) = ws.map some := by
  induction ws with
  | nil => rfl
  | cons w ws ih => cases w <;> exact congrArg _ ih

/-- Settles O25: the words pending at the ports, taken in the order of their agents' turns, are the words put. -/
theorem everyInterleavingIsASchedule : Obligations.EveryInterleavingIsASchedule := by
  intro s ws ht hb hr hl
  rw [withStimulus_eq s ws ht hb hr hl]
  exact ⟨schedule_agents ws, rfl⟩

end Sys2Proof
end

section
/-! Where the two stores change (R30): `PB` at `partial_length`, `SLOT` at `wr_ptr` and `rd_ptr`. -/

namespace Sys2Proof

open Sys2Proof.Machine Sys2Proof.Laws

theorem pb_congr {s t : State} (h : t.partialBuffer = s.partialBuffer) (k : Nat) : t.pb k = s.pb k := by
  rw [State.pb, State.pb, h]

theorem pb_of_partialBuffer_nil {s : State} (h : s.partialBuffer = []) (k : Nat) : s.pb k = none := by
  rw [State.pb, h]; rfl

/-- R88: a byte leaves the partial buffer, or is a sentinel that empties it, or is a payload byte that is
appended. -/
theorem rx_partialBuffer_cases (b : Byte) (s : State) :
    (rx b s).partialBuffer = s.partialBuffer ∨
    ((b = s.cfg.startByte ∨ b = s.cfg.endByte) ∧ (rx b s).partialBuffer = []) ∨
    (Payload s.cfg b ∧ (rx b s).partialBuffer = (s.appendByte b).partialBuffer) := by
  obtain ⟨hs, e⟩ | ⟨-, -, e⟩ | ⟨-, -, he, -, e⟩ | ⟨-, -, he, -, e⟩ | ⟨hs, -, he, -, e⟩ | ⟨-, -, -, -, e⟩ :=
    rx_cases b s <;> rw [e]
  · exact .inr (.inl ⟨.inl hs, rfl⟩)
  · exact .inl rfl
  · exact .inr (.inl ⟨.inr he, rfl⟩)
  · exact .inr (.inl ⟨.inr he, rfl⟩)
  · exact .inr (.inr ⟨⟨hs, he⟩, rfl⟩)
  · exact .inl rfl

/-- Settles O45: a byte appends as DATA only and empties as a sentinel only, which no well-formed DATA byte is; no other
operation but `RESET` touches the partial buffer. -/
theorem partialBufferChangesOnlyAtItsEnd : Obligations.PartialBufferChangesOnlyAtItsEnd := by
  intro i s t hwf h
  obtain ⟨b, hi, rfl⟩ | ⟨r, -, rfl⟩ | ⟨-, rfl⟩ | ⟨m, -, rfl⟩ | ⟨-, rfl⟩ | ⟨rfl, rfl⟩ := exec_next_cases h
  · obtain hpb | ⟨hb, hpb⟩ | ⟨⟨hs, he⟩, hpb⟩ := rx_partialBuffer_cases b s
    · exact .inl (pb_congr hpb)
    · refine .inr (.inl ⟨?_, pb_of_partialBuffer_nil hpb⟩)
      obtain ⟨rfl, -⟩ | ⟨rfl, -⟩ | rfl := hi
      · exact .inl rfl
      · exact .inr (.inl rfl)
      · obtain rfl | rfl := hb <;> simp [Instr.wf] at hwf
    · refine .inr (.inr ⟨b, ?_, ?_, ?_, fun k hk => ?_⟩)
      · obtain ⟨-, hb⟩ | ⟨-, hb⟩ | hi := hi
        · exact absurd hb hs
        · exact absurd hb he
        · exact hi
      · simp [State.partialLength, hpb]
      · rw [pb_congr hpb, pb_appendByte_self]
      · rw [pb_congr hpb, pb_appendByte_other s b hk]
  · exact .inl fun _ => rfl
  · refine .inl (pb_congr ?_)
    obtain ⟨-, e⟩ | ⟨m, rest, -, e⟩ := qpop_cases s <;> rw [e] <;> rfl
  · refine .inl (pb_congr ?_)
    obtain ⟨-, e⟩ | ⟨-, e⟩ := qpush_cases s m <;> rw [e] <;> rfl
  · exact .inl fun _ => rfl
  · exact .inr (.inl ⟨.inr (.inr rfl), fun _ => rfl⟩)

/-- R17: the place in `Q` that slot `k` holds when `rd_ptr` is `r`. -/
def queueIndex (N r k : Nat) : Nat := (k + N - r) % N

theorem slot_eq_getElem? {s : State} {k : Nat} (h : k < s.cfg.N) :
    s.slot k = s.queue[queueIndex s.cfg.N s.rdPtr k]? := slot_of_lt h

theorem slot_setQueue {s : State} {k : Nat} (h : k < s.cfg.N) (q : List Message) (r : Nat) :
    ({ s with queue := q, rdPtr := r } : State).slot k = q[queueIndex s.cfg.N r k]? := slot_of_lt h

theorem queueIndex_of_le {N r k : Nat} (hk : k < N) (h : r ≤ k) : queueIndex N r k = k - r := by
  rw [queueIndex, show k + N - r = k - r + N by omega, Nat.add_mod_right, Nat.mod_eq_of_lt (by omega)]

theorem queueIndex_of_lt {N r k : Nat} (hr : r < N) (h : k < r) : queueIndex N r k = k + N - r :=
  Nat.mod_eq_of_lt (by omega)

/-- Adding the pointer again gives the slot back. -/
theorem add_queueIndex_mod {N r k : Nat} (hr : r < N) (hk : k < N) : (r + queueIndex N r k) % N = k := by
  rw [queueIndex, Nat.add_mod_mod, show r + (k + N - r) = k + N by omega, Nat.add_mod_right, Nat.mod_eq_of_lt hk]

theorem queueIndex_add_mod {N r j : Nat} (hr : r < N) (hj : j < N) : queueIndex N r ((r + j) % N) = j := by
  obtain h | h := Nat.lt_or_ge (r + j) N
  · rw [Nat.mod_eq_of_lt h, queueIndex_of_le h (by omega)]; omega
  · rw [Nat.mod_eq_sub_mod h, Nat.mod_eq_of_lt (by omega), queueIndex_of_lt hr (by omega)]; omega

theorem queueIndex_self {N r : Nat} (hr : r < N) : queueIndex N r r = 0 := by
  rw [queueIndex_of_le hr le_rfl, Nat.sub_self]

theorem nextPtr_add_mod (c : Config) (r j : Nat) : (nextPtr c r + j) % c.N = (r + (j + 1)) % c.N := by
  rw [nextPtr, Nat.mod_add_mod, Nat.add_assoc, Nat.add_comm 1 j]

theorem queueIndex_lt {N r k : Nat} (hr : r < N) : queueIndex N r k < N := Nat.mod_lt _ (by omega)

/-- When `rd_ptr` moves on, every slot but the one it leaves comes one place nearer to the head of the queue. -/
theorem queueIndex_nextPtr {c : Config} {r k : Nat} (hc : c.Legal) (hr : r < c.N) (hk : k < c.N) (h : k ≠ r) :
    queueIndex c.N r k = queueIndex c.N (nextPtr c r) k + 1 := by
  have hk' := add_queueIndex_mod hr hk
  have hlt := queueIndex_lt (k := k) hr
  cases hj : queueIndex c.N r k with
  | zero => rw [hj, Nat.add_zero, Nat.mod_eq_of_lt hr] at hk'; exact absurd hk'.symm h
  | succ j =>
    rw [hj] at hk' hlt
    rw [← hk', ← nextPtr_add_mod, queueIndex_add_mod (nextPtr_lt hc r) (by omega)]

/-- When `rd_ptr` moves on, the slot it leaves is the last place of a full queue. -/
theorem queueIndex_nextPtr_self {c : Config} {r : Nat} (hc : c.Legal) (hr : r < c.N) :
    queueIndex c.N (nextPtr c r) r = c.N - 1 := by
  have hN := one_le_N_of_legal hc
  have hr' : (nextPtr c r + (c.N - 1)) % c.N = r := by
    rw [nextPtr_add_mod, Nat.sub_add_cancel hN, Nat.add_mod_right, Nat.mod_eq_of_lt hr]
  calc queueIndex c.N (nextPtr c r) r
      = queueIndex c.N (nextPtr c r) ((nextPtr c r + (c.N - 1)) % c.N) := by rw [hr']
    _ = c.N - 1 := queueIndex_add_mod (nextPtr_lt hc r) (by omega)

theorem getElem?_concat_of_ne {α : Type} {l : List α} {a : α} {i : Nat} (h : i ≠ l.length) :
    (l ++ [a])[i]? = l[i]? := by
  obtain hi | hi := Nat.lt_or_gt_of_ne h
  · exact List.getElem?_append_left hi
  · rw [List.getElem?_eq_none (by simpa using hi), List.getElem?_eq_none (by omega)]

section

variable {s : State} (hr : s.rdPtr < s.cfg.N)
include hr

/-- INV4: the free slot `wr_ptr` is the place behind the last of the queue. -/
theorem queueIndex_wrPtr (hq : s.queue.length < s.cfg.N) :
    queueIndex s.cfg.N s.rdPtr s.wrPtr = s.queue.length := queueIndex_add_mod hr hq

theorem queueIndex_ne_length {k : Nat} (hk : k < s.cfg.N) (h : k ≠ s.wrPtr) :
    queueIndex s.cfg.N s.rdPtr k ≠ s.queue.length := fun hlen =>
  h (by rw [← add_queueIndex_mod hr hk, hlen, State.wrPtr])

theorem slot_wrPtr (hc : s.cfg.Legal) (hq : s.queue.length < s.cfg.N) : s.slot s.wrPtr = none := by
  rw [slot_eq_getElem? (wrPtr_lt hc), queueIndex_wrPtr hr hq, List.getElem?_eq_none le_rfl]

/-- R96: an appended Message is in the slot that was `wr_ptr`. -/
theorem slot_enqueue_wrPtr (hc : s.cfg.Legal) (hq : s.queue.length < s.cfg.N) (m : Message) :
    ({ s with queue := s.queue ++ [m] } : State).slot s.wrPtr = some m := by
  rw [slot_setQueue (wrPtr_lt hc), queueIndex_wrPtr hr hq, List.getElem?_concat_length]

theorem slot_enqueue_of_ne {k : Nat} (m : Message) (h : k ≠ s.wrPtr) :
    ({ s with queue := s.queue ++ [m] } : State).slot k = s.slot k := by
  by_cases hk : k < s.cfg.N
  · rw [slot_eq_getElem? hk, slot_setQueue hk, getElem?_concat_of_ne (queueIndex_ne_length hr hk h)]
  · rw [slot_of_not_lt hk]
    exact slot_of_not_lt hk

variable {m : Message} {rest : List Message} (hq : s.queue = m :: rest)
include hq

theorem slot_rdPtr : s.slot s.rdPtr = some m := by
  rw [slot_eq_getElem? hr, queueIndex_self hr, hq]; rfl

/-- R96: the slot that `POP` leaves is free. -/
theorem slot_dequeue_rdPtr (hc : s.cfg.Legal) (hN : s.queue.length ≤ s.cfg.N) :
    ({ s with queue := rest, rdPtr := nextPtr s.cfg s.rdPtr } : State).slot s.rdPtr = none := by
  rw [hq, List.length_cons] at hN
  rw [slot_setQueue hr, queueIndex_nextPtr_self hc hr, List.getElem?_eq_none (by omega)]

theorem slot_dequeue_of_ne (hc : s.cfg.Legal) {k : Nat} (h : k ≠ s.rdPtr) :
    ({ s with queue := rest, rdPtr := nextPtr s.cfg s.rdPtr } : State).slot k = s.slot k := by
  by_cases hk : k < s.cfg.N
  · rw [slot_eq_getElem? hk, slot_setQueue hk, hq, queueIndex_nextPtr hc hr hk h, List.getElem?_cons_succ]
  · rw [slot_of_not_lt hk]
    exact slot_of_not_lt hk

end

theorem slot_of_queue_nil {s : State} (h : s.queue = []) (k : Nat) : s.slot k = none := by
  by_cases hk : k < s.cfg.N
  · rw [slot_of_lt hk, h]; rfl
  · exact slot_of_not_lt hk

/-- Settles O36: with room a Message goes to the place behind the queue's last, which is slot `wr_ptr`; `POP` takes the
head, which is slot `rd_ptr`, and every other slot keeps its Message as the places move up. -/
theorem slotsChangeOnlyAtThePointers : Obligations.SlotsChangeOnlyAtThePointers := by
  refine fun s hc hr hN => ⟨fun m hq => ?_, fun hq => ?_, fun t ht => ?_⟩
  · exact ⟨_, exec_qpush_free m (Nat.ne_of_lt hq), slot_wrPtr hr hc hq, slot_enqueue_wrPtr hr hc hq m,
      fun k hk => slot_enqueue_of_ne hr m hk⟩
  · obtain ⟨m, rest, hcons⟩ := List.exists_cons_of_length_pos hq
    exact ⟨_, m, exec_pop_cons hcons, rfl, slot_rdPtr hr hcons, slot_dequeue_rdPtr hr hcons hc hN,
      fun k hk => slot_dequeue_of_ne hr hcons hc hk⟩
  · obtain h | h := ht <;> cases h <;> exact slot_of_queue_nil rfl

end Sys2Proof
end

section
/-! One clock cycle in its two orders (R41). -/

namespace Sys2Proof

open Sys2Proof.Machine Sys2Proof.Laws

section

variable {i : PortsIn} {s t u : State} (hrst : i.rst = false)
include hrst

theorem cycle_rxFirst (hrx : cycleRx i s = .next t) (hcmd : cycleCmd i t = .next u) :
    cycle .rxFirst i s = .next (u.idle, portsOut s t.report u.report) := by
  simp [cycle, hrst, hrx, hcmd, andThen]

theorem cycle_cmdFirst (hcmd : cycleCmd i s = .next t) (hrx : cycleRx i t = .next u) :
    cycle .cmdFirst i s = .next (u.idle, portsOut s u.report t.report) := by
  simp [cycle, hrst, hrx, hcmd, andThen]

end

theorem cycleRx_valid {i : PortsIn} (h : i.rxValid = true) (s : State) :
    cycleRx i s = .next (rx i.rxByte s) := by
  rw [cycleRx, if_pos h, exec_decodeByte]

/-- A cycle's byte that closes no frame, or its absence, is decided by and changes the Decoder State alone. -/
theorem cycleRx_local {i : PortsIn} {s : State} (h : ¬ (i.rxValid = true ∧ ClosesFrame i.rxByte s)) :
    ∃ f buf r, ∀ t, SameDecoder s t → cycleRx i t = .next (withDecoder t f buf r) := by
  by_cases hv : i.rxValid = true
  · obtain ⟨f, buf, r, hrx⟩ := rx_local fun hclose => h ⟨hv, hclose⟩
    exact ⟨f, buf, r, fun t ht => by rw [cycleRx_valid hv, hrx t ht]⟩
  · exact ⟨_, _, .nothing, fun t ht => (if_neg hv).trans (congrArg _ (emit_eq_withDecoder ht _))⟩

/-- R41: a command commutes with everything but an END that closes a frame, for they write different stores. -/
theorem cycle_commutes {i : PortsIn} {s : State} (hrst : i.rst = false) (hcmd : i.cmd ≠ 0b11#2)
    (h : ¬ (i.rxValid = true ∧ ClosesFrame i.rxByte s)) :
    ∃ r, cycle .rxFirst i s = .next r ∧ cycle .cmdFirst i s = .next r := by
  obtain ⟨f, buf, r, hrx⟩ := cycleRx_local h
  obtain ⟨q, p, r', hc⟩ := exec_decodeCommand_local hcmd s
  have hs := hrx s ⟨rfl, rfl, rfl⟩
  have hs' := hc s ⟨rfl, rfl, rfl⟩
  exact ⟨_, cycle_rxFirst hrst hs (hc _ ⟨rfl, rfl, rfl⟩), cycle_cmdFirst hrst hs' (hrx _ ⟨rfl, rfl, rfl⟩)⟩

theorem cycleCmd_nop {i : PortsIn} (h : i.cmd = 0b00#2) (s : State) : cycleCmd i s = .next s.idle := by
  rw [cycleCmd, h]; rfl

theorem cycleCmd_pop {i : PortsIn} (h : i.cmd = 0b01#2) (s : State) : cycleCmd i s = exec .pop s := by
  rw [cycleCmd, h]; rfl

theorem cycleCmd_clear {i : PortsIn} (h : i.cmd = 0b10#2) (s : State) :
    cycleCmd i s = .next (s.qclear.emit .nothing) := by
  rw [cycleCmd, h]; rfl

/-- The report of an END that is accepted (R74). -/
def acceptReport (s : State) : Report := .received .evAccept (some (mkMessage s.cfg s.partialBuffer))

section

variable {i : PortsIn} {s : State} (hv : i.rxValid = true) (hclose : ClosesFrame i.rxByte s)
include hv hclose

theorem cycleRx_end_full (hq : s.queue.length = s.cfg.N) :
    cycleRx i s = .next (s.closeFrame.emit (.received .evQFull none)) := by
  rw [cycleRx_valid hv, rx_closesFrame hclose, rxEnd_full hq]

theorem cycleRx_end_free (hq : s.queue.length ≠ s.cfg.N) :
    cycleRx i s = .next ((withQueue s (s.queue ++ [mkMessage s.cfg s.partialBuffer]) s.rdPtr
      (acceptReport s)).closeFrame) := by
  rw [cycleRx_valid hv, rx_closesFrame hclose, rxEnd_free hq]; rfl

variable (hrst : i.rst = false)
include hrst

theorem cycle_end_nop (hcmd : i.cmd = 0b00#2) :
    ∃ r, cycle .rxFirst i s = .next r ∧ cycle .cmdFirst i s = .next r := by
  by_cases hq : s.queue.length = s.cfg.N
  · exact ⟨_, cycle_rxFirst hrst (cycleRx_end_full hv hclose hq) (cycleCmd_nop hcmd _),
      cycle_cmdFirst hrst (cycleCmd_nop hcmd s) (cycleRx_end_full (s := s.idle) hv hclose hq)⟩
  · exact ⟨_, cycle_rxFirst hrst (cycleRx_end_free hv hclose hq) (cycleCmd_nop hcmd _),
      cycle_cmdFirst hrst (cycleCmd_nop hcmd s) (cycleRx_end_free (s := s.idle) hv hclose hq)⟩

/-- R41, X4 and X5: the `CLEAR` after the END deletes its Message too; the one before it does not. -/
theorem cycle_end_clear (hc : s.cfg.Legal) (hcmd : i.cmd = 0b10#2) :
    (∃ (t : State) (o : PortsOut), cycle .rxFirst i s = .next (t, o) ∧ t.queue = []) ∧
    cycle .cmdFirst i s = .next ((withQueue s [mkMessage s.cfg s.partialBuffer] 0 .nothing).closeFrame,
      portsOut s (acceptReport s) .nothing) := by
  have hN := one_le_N_of_legal hc
  refine ⟨⟨_, _, cycle_rxFirst hrst (cycleRx_valid hv s) (cycleCmd_clear hcmd _), rfl⟩, ?_⟩
  exact cycle_cmdFirst hrst (cycleCmd_clear hcmd s)
    (cycleRx_end_free (s := s.qclear.emit .nothing) hv hclose (Nat.ne_of_lt hN))

variable (hcmd : i.cmd = 0b01#2)
include hcmd

/-- R41, X2: the `POP` after the END takes its Message. -/
theorem cycle_rxFirst_end_pop_empty (hc : s.cfg.Legal) (hq : s.queue = []) :
    cycle .rxFirst i s = .next ((withQueue s [] (nextPtr s.cfg s.rdPtr) .nothing).closeFrame,
      portsOut s (acceptReport s) (.popped (some (mkMessage s.cfg s.partialBuffer)))) := by
  have hN := one_le_N_of_legal hc
  have hend := cycleRx_end_free hv hclose (by rw [hq]; exact Nat.ne_of_lt hN)
  rw [hq] at hend
  exact cycle_rxFirst hrst hend ((cycleCmd_pop hcmd _).trans (exec_pop_cons rfl))

/-- R41, X2: the `POP` before the END finds nothing. -/
theorem cycle_cmdFirst_end_pop_empty (hc : s.cfg.Legal) (hq : s.queue = []) :
    cycle .cmdFirst i s = .next ((withQueue s [mkMessage s.cfg s.partialBuffer] s.rdPtr .nothing).closeFrame,
      portsOut s (acceptReport s) (.popped none)) := by
  have hN := one_le_N_of_legal hc
  have hpop := (cycleCmd_pop hcmd s).trans (exec_pop_empty hq)
  have hend := cycleRx_end_free (s := s.emit (.popped none)) hv hclose (by rw [emit_queue, hq]; exact Nat.ne_of_lt hN)
  rw [emit_queue, hq] at hend
  exact cycle_cmdFirst hrst hpop hend

variable {m : Message} {rest : List Message} (hq : s.queue = m :: rest)
include hq

/-- R41, X1: the `POP` after the END comes too late to make room for its Message. -/
theorem cycle_rxFirst_end_pop_full (hfull : s.queue.length = s.cfg.N) :
    cycle .rxFirst i s = .next ((withQueue s rest (nextPtr s.cfg s.rdPtr) .nothing).closeFrame,
      portsOut s (.received .evQFull none) (.popped (some m))) := by
  have hend := cycleRx_end_full hv hclose hfull
  exact cycle_rxFirst hrst hend ((cycleCmd_pop hcmd _).trans (exec_pop_cons hq))

/-- R41, X1 and X3: the `POP` before the END makes room for its Message. -/
theorem cycle_cmdFirst_end_pop_cons (hN : s.queue.length ≤ s.cfg.N) :
    cycle .cmdFirst i s =
      .next ((withQueue s (rest ++ [mkMessage s.cfg s.partialBuffer]) (nextPtr s.cfg s.rdPtr) .nothing).closeFrame,
        portsOut s (acceptReport s) (.popped (some m))) := by
  rw [hq] at hN
  exact cycle_cmdFirst hrst ((cycleCmd_pop hcmd s).trans (exec_pop_cons hq))
    (cycleRx_end_free (s := withQueue s rest _ _) hv hclose (Nat.ne_of_lt hN))

/-- R41, X3: with a free slot and a Message to take the order of the END and the `POP` makes no difference. -/
theorem cycle_rxFirst_end_pop_cons (hfree : s.queue.length ≠ s.cfg.N) :
    cycle .rxFirst i s =
      .next ((withQueue s (rest ++ [mkMessage s.cfg s.partialBuffer]) (nextPtr s.cfg s.rdPtr) .nothing).closeFrame,
        portsOut s (acceptReport s) (.popped (some m))) := by
  have hend := cycleRx_end_free hv hclose hfree
  rw [hq] at hend
  exact cycle_rxFirst hrst hend ((cycleCmd_pop hcmd _).trans (exec_pop_cons rfl))

end

/-- R41: an END that closes a frame commutes with a command unless the order matters. -/
theorem cycle_end_commutes {i : PortsIn} {s : State} (hN : s.queue.length ≤ s.cfg.N) (hrst : i.rst = false)
    (hcmd : i.cmd ≠ 0b11#2) (hv : i.rxValid = true) (hclose : ClosesFrame i.rxByte s) (h : ¬ OrderMatters i s) :
    ∃ r, cycle .rxFirst i s = .next r ∧ cycle .cmdFirst i s = .next r := by
  have ⟨_, he, hi⟩ := hclose
  obtain h0 | h1 | h2 := decodeCommand_cases i.cmd hcmd
  · exact cycle_end_nop hv hclose hrst h0
  · have hfree : s.queue.length ≠ s.cfg.N := fun hq => h ⟨hv, he, hi, .inr ⟨h1, .inl hq⟩⟩
    have hpos : s.queue.length ≠ 0 := fun hq => h ⟨hv, he, hi, .inr ⟨h1, .inr hq⟩⟩
    obtain ⟨m, rest, hq⟩ := List.exists_cons_of_length_pos (Nat.pos_of_ne_zero hpos)
    exact ⟨_, cycle_rxFirst_end_pop_cons hv hclose hrst h1 hq hfree,
      cycle_cmdFirst_end_pop_cons hv hclose hrst h1 hq hN⟩
  · exact absurd ⟨hv, he, hi, .inl h2⟩ h

/-- Settles O47: byte and command write different stores, unless the byte is an END that closes a frame; its two orders
are computed command by command. -/
theorem sameCycleOrders : Obligations.SameCycleOrders := by
  refine fun i s hc hN hrst hcmd => ⟨fun h => ?_, fun hv he hi => ?_⟩
  · by_cases hend : i.rxValid = true ∧ ClosesFrame i.rxByte s
    · obtain ⟨hv, hclose⟩ := hend
      exact cycle_end_commutes hN hrst hcmd hv hclose h
    · exact cycle_commutes hrst hcmd hend
  · have ⟨hne, _⟩ := hc
    have hclose : ClosesFrame i.rxByte s := ⟨fun hs => hne (hs.symm.trans he), he, hi⟩
    refine ⟨fun m rest h1 hq hfull => ?_, fun h1 hq => ?_, fun h2 => ?_⟩
    · exact ⟨_, _, _, _, cycle_rxFirst_end_pop_full hv hclose hrst h1 hq hfull,
        cycle_cmdFirst_end_pop_cons hv hclose hrst h1 hq hN, rfl, rfl, rfl, rfl, rfl, rfl⟩
    · exact ⟨_, _, _, _, cycle_rxFirst_end_pop_empty hv hclose hrst h1 hc hq,
        cycle_cmdFirst_end_pop_empty hv hclose hrst h1 hc hq, rfl, rfl, rfl, rfl⟩
    · obtain ⟨⟨t, o, ht, hnil⟩, hu⟩ := cycle_end_clear hv hclose hrst hc h2
      exact ⟨t, _, o, _, ht, hu, hnil, rfl, rfl⟩

end Sys2Proof
end

section
/-! The decoder and the encoder, each read backwards through the other (R51, R52, R59, R66). -/

namespace Sys2Proof

open Sys2Proof.Machine Sys2Proof.Laws

/-- R59: every word of the command port is the word of the operation it decodes to, which is well formed. -/
theorem encode_decodeCommand (c : Config) (w : BitVec 2) :
    (decodeCommand w).wf c = true ∧ encode c (decodeCommand w) = some (.request (.command w)) := by
  by_cases h3 : w = 0b11#2
  · subst h3; exact ⟨rfl, rfl⟩
  · obtain rfl | rfl | rfl := decodeCommand_cases w h3 <;> exact ⟨rfl, rfl⟩

theorem encode_decodeByte (c : Config) (b : Byte) : encode c (decodeByte c b) = some (.rx b) := by
  obtain ⟨rfl, e⟩ | ⟨-, rfl, e⟩ | ⟨-, -, e⟩ := decodeByte_cases c b <;> rw [e] <;> rfl

theorem decodeByte_wf (c : Config) (b : Byte) : (decodeByte c b).wf c = true := by
  obtain ⟨-, e⟩ | ⟨-, -, e⟩ | ⟨hs, he, e⟩ := decodeByte_cases c b <;> rw [e]
  case inr.inr => simp [Instr.wf, hs, he]
  all_goals rfl

/-- R67: the one level of `rst` that is an operation. -/
theorem decode_rst_ok {c : Config} {level : BitVec 1} {i : Instr} (h : decode c (.rst level) = .ok i) :
    level = 1#1 ∧ i = .reset := by
  simp only [decode] at h
  split_ifs at h with h1
  cases h
  exact ⟨h1, rfl⟩

/-- A word that is an operation is the word of that operation, which is well formed. -/
theorem encode_decode {c : Config} {w : PortWord} {i : Instr} (h : decode c w = .ok i) :
    i.wf c = true ∧ encode c i = some w := by
  cases w with
  | rx b => cases h; exact ⟨decodeByte_wf c b, encode_decodeByte c b⟩
  | request r =>
    cases h
    cases r with
    | command w => exact encode_decodeCommand c w
    | readLen => exact ⟨rfl, rfl⟩
    | readCapacity => exact ⟨rfl, rfl⟩
  | rst level =>
    obtain ⟨rfl, rfl⟩ := decode_rst_ok h
    exact ⟨rfl, rfl⟩

/-- A well-formed operation is what its word decodes to: the sentinels are told apart by R5, and no DATA byte is one. -/
theorem decode_encode {c : Config} (hc : c.startByte ≠ c.endByte) {i : Instr} {w : PortWord} (hwf : i.wf c = true)
    (h : encode c i = some w) : decode c w = .ok i := by
  cases i with
  | startFrame => cases h; exact congrArg Except.ok (decodeByte_start c)
  | endFrame => cases h; exact congrArg Except.ok (decodeByte_end hc)
  | data b =>
    cases h
    obtain ⟨hs, he⟩ : b ≠ c.startByte ∧ b ≠ c.endByte := by simpa [Instr.wf] using hwf
    exact congrArg Except.ok (decodeByte_data hs he)
  | _ => cases h <;> rfl

theorem encode_eq_none_iff (c : Config) (i : Instr) : encode c i = none ↔ ∃ m : Message, i = .qpush m := by
  cases i with
  | qpush m => exact (AgentPort.qpush m c).2
  | _ => simp [encode]

/-- Settles O18: port by port, and operation by operation. -/
theorem decodeEncodeAgree : Obligations.DecodeEncodeAgree := by
  refine fun c hc => ⟨fun i w => ?_, fun w i => encode_decode, encode_eq_none_iff c⟩
  obtain ⟨hne, -⟩ := hc
  exact decode_encode hne

/-- Settles O16: each of the four values is compared with in turn. -/
theorem commandEncoding : Obligations.CommandEncoding := fun _ => ⟨rfl, rfl, rfl, rfl⟩

/-- Settles O17: each word's width names its port, and the port's decoder reads it. -/
theorem wordsDecode : Obligations.WordsDecode := by
  unfold Obligations.WordsDecode
  decide

/-- Settles O12: the word is the one the reserved operation is refused for, at the port or by itself. -/
theorem reservedCommandIsRefused : Obligations.ReservedCommandIsRefused :=
  ⟨rfl, fun _ => ⟨rfl, fun hc _ _ ht hw => step_of_takeTurn hc (takeTurn_request ht hw)⟩⟩

end Sys2Proof
end

section
/-! The classes of a byte (R51): which bytes are in them, the table's rows for them, and how many there are. -/

namespace Sys2Proof

open Sys2Proof.Machine Sys2Proof.Laws

theorem byteClass_eq_start_iff (c : Config) (b : Byte) : byteClass c b = .start ↔ b = c.startByte := by
  unfold byteClass
  split_ifs with hs <;> simp [hs]

theorem byteClass_eq_finish_iff {c : Config} (hc : c.startByte ≠ c.endByte) (b : Byte) :
    byteClass c b = .finish ↔ b = c.endByte := by
  unfold byteClass
  split_ifs with hs he
  · simp [hs, hc]
  · simp [he]
  · simp [he]

theorem byteClass_eq_data_iff (c : Config) (b : Byte) :
    byteClass c b = .data ↔ b ≠ c.startByte ∧ b ≠ c.endByte := by
  unfold byteClass
  split_ifs with hs he
  · simp [hs]
  · simp [he]
  · simp [hs, he]

/-- The table's rows for the documented sentinels, compared with the classes byte by byte. -/
theorem receiveRows_matching :
    ∀ b : Byte, (receiveRows.filter fun r => r.matches b).map (fun r => r.mnemonic) =
      [(byteClass Config.documented b).mnemonic] := by decide

/-- The documented sentinels 0x02 and 0x03 differ in bit 0 alone. -/
theorem byteClass_documented_by_bits :
    ∀ b : Byte, (byteClass Config.documented b = .data ↔ b.extractLsb' 1 7 ≠ 0b0000001#7) ∧
      (byteClass Config.documented b = .start ↔ b.extractLsb' 1 7 = 0b0000001#7 ∧ b.getLsbD 0 = false) ∧
      (byteClass Config.documented b = .finish ↔ b.extractLsb' 1 7 = 0b0000001#7 ∧ b.getLsbD 0 = true) := by decide

/-- The classes of the 256 bytes, in the order of their values. -/
def documentedClasses : List ByteClass :=
  (List.range 256).map fun k => byteClass Config.documented (BitVec.ofNat 8 k)

theorem documentedClasses_length : documentedClasses.length = 256 := by
  rw [documentedClasses, List.length_map, List.length_range]

/-- A class that one byte alone is in is counted once. -/
theorem count_documentedClasses_eq_one {a : ByteClass} {x : Byte}
    (h : ∀ b : Byte, byteClass Config.documented b = a ↔ b = x) : documentedClasses.count a = 1 := by
  have hx : x.toNat ∈ List.range 256 := List.mem_range.2 x.isLt
  rw [← List.count_eq_one_of_mem List.nodup_range hx, documentedClasses, List.count, List.countP_map]
  refine List.countP_congr fun k hk => ?_
  have hk : k < 256 := List.mem_range.1 hk
  simp [h, ← BitVec.toNat_inj, Nat.mod_eq_of_lt hk]

/-- Every byte is in one of the three classes. -/
theorem count_classes (l : List ByteClass) :
    l.count .start + l.count .finish + l.count .data = l.length := by
  induction l with
  | nil => rfl
  | cons a l ih => cases a <;> simp <;> omega

/-- Settles O15: each sentinel is alone in its class, and the 254 other bytes are the third. -/
theorem byteClassesMatchTable : Obligations.ByteClassesMatchTable := by
  have hstart : documentedClasses.count .start = 1 :=
    count_documentedClasses_eq_one (byteClass_eq_start_iff Config.documented)
  have hfinish : documentedClasses.count .finish = 1 :=
    count_documentedClasses_eq_one (byteClass_eq_finish_iff (c := Config.documented) (by decide))
  have hdata : documentedClasses.count .data = 254 := by
    have hsum := count_classes documentedClasses
    rw [hstart, hfinish, documentedClasses_length] at hsum
    omega
  exact ⟨receiveRows_matching,
    fun c b hc => ⟨byteClass_eq_start_iff c b, byteClass_eq_finish_iff hc b, byteClass_eq_data_iff c b⟩,
    byteClass_documented_by_bits, hstart, hfinish, hdata⟩

end Sys2Proof
end

section
/-! Message assembly and layout (R55, R56): the bytes of an assembled Message are those of the buffer padded with
zeros, and its vector holds byte `k` at bits `8k+7` down to `8k`. -/

namespace Sys2Proof

open Sys2Proof.Machine Sys2Proof.Laws

/-- R55 in one line: byte `k` of the Message is byte `k` of the buffer, or the padding zero. -/
theorem mkMessage_bytes_getElem? (c : Config) (buf : List Byte) {k : Nat} (h : k < 1 + c.A) :
    (mkMessage c buf).bytes[k]? = some (buf[k]?.getD 0#8) := by
  cases k with
  | zero => rfl
  | succ k => exact mkMessage_arg c buf k (by omega)

/-- R5: `P` kept bytes fit the `1 + A` bytes of a Message. -/
theorem P_le_of_legal {c : Config} (h : c.Legal) : c.P ≤ 1 + c.A := by
  obtain ⟨-, -, -, hA⟩ := h
  omega

/-- Settles O19: byte `k` of the buffer is byte `k` of the Message, and R5 leaves no kept byte without a place. -/
theorem messageAssembly : Obligations.MessageAssembly := by
  refine fun c buf hc hP => ⟨fun h => ?_, fun h => ?_, mkMessage_args_length c buf, fun i hi h => ?_, fun i hi h => ?_,
    fun k hk => ?_⟩
  · rw [mkMessage_code, List.getElem?_eq_getElem h, Option.getD_some]
  · rw [h]; rfl
  · rw [mkMessage_arg c buf i hi, List.getElem?_eq_getElem h, Option.getD_some]
  · rw [mkMessage_arg c buf i hi, List.getElem?_eq_none h, Option.getD_none]
  · have hfits := P_le_of_legal hc
    rw [mkMessage_bytes_getElem? c buf (by omega), List.getElem?_eq_getElem hk, Option.getD_some]

/-- Byte `k` of a sequence is at bits `8k+7` down to `8k` of its value. -/
theorem bytesValue_byte {bs : List Byte} {k : Nat} (h : k < bs.length) :
    bytesValue bs / 2 ^ (8 * k) % 256 = bs[k].toNat := by
  induction bs generalizing k with
  | nil => simp at h
  | cons b bs ih =>
    have hb : b.toNat < 256 := b.isLt
    cases k with
    | zero =>
      simp only [bytesValue, List.getElem_cons_zero, Nat.mul_zero, Nat.pow_zero, Nat.div_one]
      omega
    | succ k =>
      have htail : bytesValue (b :: bs) / 256 = bytesValue bs := by
        rw [bytesValue]
        omega
      have hpow : 2 ^ (8 * (k + 1)) = 256 * 2 ^ (8 * k) := by rw [Nat.mul_succ, Nat.pow_add, Nat.mul_comm]
      rw [hpow, ← Nat.div_div_eq_div_mul, htail, List.getElem_cons_succ]
      exact ih (Nat.lt_of_succ_lt_succ h)

/-- R56: the code is lowest. -/
theorem messageVector_mod (m : Message) : messageVector m % 256 = m.code.toNat := by
  have hcode := bytesValue_byte (bs := m.bytes) (k := 0) (Nat.succ_pos _)
  rwa [Nat.mul_zero, Nat.pow_zero, Nat.div_one] at hcode

/-- Settles O20: the width is that of `1 + A` bytes, and the layout is that of any sequence of bytes. -/
theorem messageVectorLayout : Obligations.MessageVectorLayout :=
  fun _ m hm => ⟨messageVector_lt_of_wf hm, messageVector_mod m, fun _ h => bytesValue_byte h⟩

/-- R55: beyond its bytes a buffer is read as zeros, so a zero at its end is read as if it were not there. -/
theorem getD_append_zero (buf : List Byte) (i : Nat) :
    (buf ++ [0#8])[i]?.getD 0#8 = buf[i]?.getD 0#8 := by
  by_cases h : i = buf.length
  · rw [h, List.getElem?_concat_length, List.getElem?_eq_none le_rfl]; rfl
  · rw [getElem?_concat_of_ne h]

/-- Settles O21: the assembly reads the buffer with its padding only. -/
theorem trailingZeroIsPadding : Obligations.TrailingZeroIsPadding := by
  intro c buf
  simp only [mkMessage, getD_append_zero]

end Sys2Proof
end

section
/-! What an operation reports (R61, R84) and the outputs of one clock cycle (R67). -/

namespace Sys2Proof

open Sys2Proof.Machine Sys2Proof.Laws

/-- No two events have one code. -/
theorem eventCode_inj {e e' : Event} : e.code = e'.code ↔ e = e' := by
  cases e <;> cases e' <;> decide

theorem msgAvail_iff_code (r : Report) : r.msgAvail = true ↔ r.event.code = 3#3 := by
  rw [Report.msgAvail, decide_eq_true_iff]
  exact (eventCode_inj (e' := .evAccept)).symm

/-- R61: bit 2 of a code marks the diagnostics, and code 7 is no event's. -/
theorem eventCode_spec (e : Event) :
    e.code ≠ 7#3 ∧ e.code.getLsbD 2 = e.diagnostic ∧
      (e.diagnostic = true ↔ e = .evDesync ∨ e = .evQFull ∨ e = .evOverflow) := by
  cases e <;> decide

/-- R61, R70: which event a byte reports, and under which of the tests. -/
theorem rx_event_iff (b : Byte) {s : State} (hc : s.cfg.startByte ≠ s.cfg.endByte) :
    ((rx b s).report.event = .evStart ↔ b = s.cfg.startByte) ∧
    ((rx b s).report.event = .evDesync ↔ b ≠ s.cfg.startByte ∧ s.inProgress = false) ∧
    ((rx b s).report.event = .evQFull ↔ b = s.cfg.endByte ∧ s.inProgress = true ∧ s.queue.length = s.cfg.N) ∧
    ((rx b s).report.event = .evAccept ↔ b = s.cfg.endByte ∧ s.inProgress = true ∧ s.queue.length ≠ s.cfg.N) ∧
    ((rx b s).report.event = .evOverflow ↔
      b ≠ s.cfg.startByte ∧ b ≠ s.cfg.endByte ∧ s.inProgress = true ∧ s.partialLength = s.cfg.P) ∧
    ((rx b s).report.event = .evAppend ↔
      b ≠ s.cfg.startByte ∧ b ≠ s.cfg.endByte ∧ s.inProgress = true ∧ s.partialLength ≠ s.cfg.P) := by
  obtain ⟨hs, e⟩ | ⟨hs, hi, e⟩ | ⟨hs, hi, he, hq, e⟩ | ⟨hs, hi, he, hq, e⟩ | ⟨hs, hi, he, hl, e⟩ |
    ⟨hs, hi, he, hl, e⟩ := rx_cases b s <;> rw [e]
  · simp [Report.event, hs, hc]
  · simp [Report.event, hs, hi]
  · simp [Report.event, hi, he, hq, hc.symm]
  · simp [Report.event, hi, he, hq, hc.symm]
  · simp [Report.event, State.partialLength, hs, hi, he, hl]
  · simp [Report.event, State.partialLength, hs, hi, he, hl]

/-- R61: a byte is never reported as nothing. -/
theorem rx_event_ne_none (b : Byte) (s : State) : (rx b s).report.event ≠ .evNone := by
  obtain ⟨-, e⟩ | ⟨-, -, e⟩ | ⟨-, -, -, -, e⟩ | ⟨-, -, -, -, e⟩ | ⟨-, -, -, -, e⟩ | ⟨-, -, -, -, e⟩ := rx_cases b s <;>
    simp [e, Report.event]

/-- R61: only an `RX` reports an event. -/
theorem exec_event_of_not_rx {i : Instr} {s t : State} (hi : isRx i = false) (h : exec i s = .next t) :
    t.report.event = .evNone := by
  obtain ⟨b, hb, -⟩ | ⟨r, hr, rfl⟩ | ⟨-, rfl⟩ | ⟨m, -, rfl⟩ | ⟨-, rfl⟩ | ⟨-, rfl⟩ := exec_next_cases h
  · obtain ⟨rfl, -⟩ | ⟨rfl, -⟩ | rfl := hb <;> cases hi
  · obtain ⟨-, rfl⟩ | ⟨-, rfl⟩ | ⟨-, rfl⟩ := hr <;> rfl
  all_goals rfl

/-- Settles O31: the tests of R70 exclude each other and each has its own event. -/
theorem eventCodesAndCauses : Obligations.EventCodesAndCauses := by
  refine ⟨fun s b ⟨hc, _⟩ => ⟨_, exec_decodeByte s b, ?_⟩, eventCode_spec, fun i s t hi h => ?_⟩
  · obtain ⟨hstart, hdesync, hqfull, haccept, hoverflow, happend⟩ := rx_event_iff b hc
    exact ⟨eventCode_inj.trans hstart, eventCode_inj.trans hdesync, eventCode_inj.trans hqfull,
      eventCode_inj.trans haccept, eventCode_inj.trans hoverflow, eventCode_inj.trans happend,
      fun h0 => rx_event_ne_none b s (eventCode_inj.1 h0), msgAvail_iff_code _⟩
  · rw [exec_event_of_not_rx hi h]; rfl

end Sys2Proof
end

section
/-! The outputs of one clock cycle (R67): the reports of its two operations, whatever their order. -/

namespace Sys2Proof

open Sys2Proof.Machine Sys2Proof.Laws

/-- R162, R41: the outputs of a cycle are made of no report under `rst`, else of the reports of its byte and of its
command, each run in the state that the order of the cycle gives it. -/
theorem cycle_next_cases {order : SameCycleOrder} {i : PortsIn} {s t : State} {o : PortsOut}
    (h : cycle order i s = .next (t, o)) :
    (i.rst = true ∧ o = portsOut s .nothing .nothing) ∨
    (i.rst = false ∧ ∃ u u' v v' : State, cycleRx i u = .next u' ∧ cycleCmd i v = .next v' ∧
      o = portsOut s u'.report v'.report) := by
  cases hr : i.rst with
  | true =>
    simp only [cycle, hr, if_true, andThen_next] at h
    obtain ⟨_, -, h⟩ := h
    cases h
    exact .inl ⟨rfl, rfl⟩
  | false =>
    refine .inr ⟨rfl, ?_⟩
    cases order with
    | rxFirst =>
      simp only [cycle, hr, Bool.false_eq_true, if_false, andThen_next] at h
      obtain ⟨u, hrx, v, hcmd, h⟩ := h
      cases h
      exact ⟨_, _, _, _, hrx, hcmd, rfl⟩
    | cmdFirst =>
      simp only [cycle, hr, Bool.false_eq_true, if_false, andThen_next] at h
      obtain ⟨v, hcmd, u, hrx, h⟩ := h
      cases h
      exact ⟨_, _, _, _, hrx, hcmd, rfl⟩

/-- R84: a byte's result is there exactly with "message available". -/
theorem rx_msgAvail_iff_accepted (b : Byte) (s : State) :
    (rx b s).report.msgAvail = true ↔ (rx b s).report.accepted.isSome = true := by
  obtain ⟨-, e⟩ | ⟨-, -, e⟩ | ⟨-, -, -, -, e⟩ | ⟨-, -, -, -, e⟩ | ⟨-, -, -, -, e⟩ | ⟨-, -, -, -, e⟩ := rx_cases b s <;>
    simp [e, Report.msgAvail, Report.event, Report.accepted]

/-- What the report on the receive side of a cycle says, given whether a byte was received. -/
structure ReceiveReport (received : Bool) (r : Report) : Prop where
  event_eq_none_iff : r.event = .evNone ↔ received = false
  msgAvail_iff_accepted : r.msgAvail = true ↔ r.accepted.isSome = true

theorem receiveReport_nothing : ReceiveReport false .nothing := ⟨by decide, by decide⟩

theorem cycleRx_report {i : PortsIn} {s t : State} (h : cycleRx i s = .next t) : ReceiveReport i.rxValid t.report := by
  cases hv : i.rxValid with
  | true =>
    rw [cycleRx_valid hv] at h
    cases h
    exact ⟨by simp [rx_event_ne_none], rx_msgAvail_iff_accepted _ _⟩
  | false =>
    simp only [cycleRx, hv, Bool.false_eq_true, if_false] at h
    cases h
    exact receiveReport_nothing

/-- R67: only a `POP` reports a popped Message. -/
theorem cycleCmd_popValid {i : PortsIn} {s t : State} (hcmd : i.cmd ≠ 0b01#2) (h : cycleCmd i s = .next t) :
    t.report.popValid = false := by
  by_cases h3 : i.cmd = 0b11#2
  · rw [cycleCmd, h3] at h
    cases h
  obtain h0 | h1 | h2 := decodeCommand_cases i.cmd h3
  · rw [cycleCmd_nop h0] at h
    cases h; rfl
  · exact absurd h1 hcmd
  · rw [cycleCmd_clear h2] at h
    cases h; rfl

/-- The outputs of a cycle are those of a receive-side and of a command-side report. -/
theorem cycle_reports {order : SameCycleOrder} {i : PortsIn} {s t : State} {o : PortsOut}
    (h : cycle order i s = .next (t, o)) :
    ∃ r c : Report, o = portsOut s r c ∧ ReceiveReport (i.rxValid && !i.rst) r ∧
      (i.cmd ≠ 0b01#2 → c.popValid = false) := by
  obtain ⟨hr, ho⟩ | ⟨hr, u, u', v, v', hrx, hcmd, ho⟩ := cycle_next_cases h
  · refine ⟨_, _, ho, ?_, fun _ => rfl⟩
    rw [hr, Bool.not_true, Bool.and_false]
    exact receiveReport_nothing
  · refine ⟨_, _, ho, ?_, fun hne => cycleCmd_popValid hne hcmd⟩
    rw [hr, Bool.not_false, Bool.and_true]
    exact cycleRx_report hrx

/-- R67: `EV_NONE` exactly without a byte or under `rst`. -/
theorem ReceiveReport.code_eq_zero_iff {r : Report} {i : PortsIn} (h : ReceiveReport (i.rxValid && !i.rst) r) :
    r.event.code = 0#3 ↔ i.rxValid = false ∨ i.rst = true :=
  (eventCode_inj (e' := .evNone)).trans (h.event_eq_none_iff.trans (by rw [Bool.and_eq_false_iff, Bool.not_eq_false']))

/-- Settles O49: the outputs are read off the two reports, and the status off the state before the cycle. -/
theorem cycleOutputs : Obligations.CycleOutputs := by
  intro order i s t o h
  obtain ⟨r, c, rfl, hrx, hpop⟩ := cycle_reports h
  have hnone := hrx.code_eq_zero_iff
  have hmsg : r.msgAvail = true ↔ (portsOut s r c).evMsg.isSome = true :=
    hrx.msgAvail_iff_accepted.trans (by simp [portsOut])
  have hpopMsg : (portsOut s r c).popValid = true ↔ (portsOut s r c).popMsg.isSome = true := by
    simp [portsOut, Report.popValid]
  refine ⟨rfl, msgAvail_iff_code r, hmsg, hnone.2, fun hv hr h0 => ?_, hpopMsg, hpop, rfl, rfl,
    decide_eq_true_iff, decide_eq_true_iff⟩
  obtain hv' | hr' := hnone.1 h0
  · rw [hv] at hv'; cases hv'
  · rw [hr] at hr'; cases hr'

end Sys2Proof
end

section
/-! A frame without argument bytes (R54, R62) is accepted from any state with a free slot. -/

namespace Sys2Proof

open Sys2Proof.Machine Sys2Proof.Laws

/-- R37: a stream is its first byte's `RX`, then the rest. -/
theorem feed_cons {c : Config} {s : State} (h : s.cfg = c) (b : Byte) (bs : List Byte) :
    feed c (b :: bs) s = feed c bs (rx b s) := by
  subst h
  simp only [feed, List.map_cons, execAll, exec_decodeByte, andThen]

theorem mkMessage_singleton (c : Config) (b : Byte) :
    mkMessage c [b] = { code := b, args := zeros c.A } := by
  simp [mkMessage, zeros]

/-- R71, R76: after a START and one payload byte that byte alone is kept. -/
theorem rx_start_payload {s : State} {b : Byte} (hP : 1 ≤ s.cfg.P) (hb : Payload s.cfg b) :
    rx b (rx s.cfg.startByte s) =
      withDecoder s true [b] (.received .evAppend none) := by
  obtain ⟨hs, he⟩ := hb
  rw [rx_start rfl, rx_data (s := rxStart s) hs rfl he, rxData_free (s := rxStart s) (Nat.ne_of_lt hP)]
  rfl

/-- R74: an END in frame with a free slot. -/
theorem rx_endByte_free {s : State} (hne : s.cfg.startByte ≠ s.cfg.endByte) (hi : s.inProgress = true)
    (hq : s.queue.length < s.cfg.N) :
    rx s.cfg.endByte s =
      { s with
        inProgress := false
        partialBuffer := []
        queue := s.queue ++ [mkMessage s.cfg s.partialBuffer]
        report := acceptReport s } :=
  (rx_end hne.symm hi rfl).trans (rxEnd_free (Nat.ne_of_lt hq))

/-- R54, R74: the frame of a code alone, from any state with a free slot. -/
theorem feed_encodeFrame_nil {s : State} {b : Byte} (hc : s.cfg.Legal) (hb : Payload s.cfg b)
    (hq : s.queue.length < s.cfg.N) :
    feed s.cfg (encodeFrame s.cfg b []) s = .next
      { s with
        inProgress := false
        partialBuffer := []
        queue := s.queue ++ [{ code := b, args := zeros s.cfg.A }]
        report := .received .evAccept (some { code := b, args := zeros s.cfg.A }) } := by
  obtain ⟨hne, hP, -, -⟩ := hc
  have hend := rx_endByte_free (s := withDecoder s true [b] (.received .evAppend none)) hne rfl hq
  rw [← mkMessage_singleton]
  calc feed s.cfg [s.cfg.startByte, b, s.cfg.endByte] s
      = .next (rx s.cfg.endByte (rx b (rx s.cfg.startByte s))) := by
        rw [feed_cons rfl, feed_cons (rx_cfg _ _), feed_cons ((rx_cfg _ _).trans (rx_cfg _ _))]; rfl
    _ = .next (rx s.cfg.endByte (withDecoder s true [b] (.received .evAppend none))) := by
        rw [rx_start_payload hP hb]
    _ = _ := congrArg Host.Outcome.next hend

/-- Settles O55: the documented block is legal and none of the four codes is a sentinel of it. -/
theorem replyFramesAreAccepted : Obligations.ReplyFramesAreAccepted := by
  intro s code hcfg hq hcode
  have hlegal : s.cfg.Legal := by rw [hcfg]; decide
  have hpayload : ∀ b ∈ [0x06#8, 0x15#8, 0x16#8, 0x08#8], Payload Config.documented b := by decide
  have hframe : encodeFrame s.cfg code [] = [0x02#8, code, 0x03#8] := by rw [hcfg]; rfl
  have hfeed := feed_encodeFrame_nil hlegal (hcfg ▸ hpayload code hcode) hq
  rw [hframe] at hfeed
  refine ⟨hframe, _, hfeed, ?_, ?_⟩ <;> simp only [hcfg] <;> rfl

end Sys2Proof
end

section
/-! What each case of `RX` answers (spec/40_frame_decoder.md R71 to R77): the whole next state, case by case. -/

namespace Sys2Proof

open Sys2Proof.Machine Sys2Proof.Laws

/-- R75: an END in frame on a full queue. -/
theorem rx_endByte_full {s : State} (hne : s.cfg.startByte ≠ s.cfg.endByte) (hi : s.inProgress = true)
    (hq : s.queue.length = s.cfg.N) :
    rx s.cfg.endByte s =
      { s with inProgress := false, partialBuffer := [], report := .received .evQFull none } :=
  (rx_end hne.symm hi rfl).trans (rxEnd_full hq)

/-- R76: a payload byte in frame with room in the partial buffer. -/
theorem rx_payload_free {s : State} {b : Byte} (hb : Payload s.cfg b) (hi : s.inProgress = true)
    (hl : s.partialLength ≠ s.cfg.P) : rx b s = (s.appendByte b).emit (.received .evAppend none) := by
  obtain ⟨hs, he⟩ := hb
  rw [rx_data hs hi he, rxData_free hl]

/-- R77: a payload byte in frame with a full partial buffer. -/
theorem rx_payload_full {s : State} {b : Byte} (hb : Payload s.cfg b) (hi : s.inProgress = true)
    (hl : s.partialLength = s.cfg.P) : rx b s = s.emit (.received .evOverflow none) := by
  obtain ⟨hs, he⟩ := hb
  rw [rx_data hs hi he, rxData_full hl]

/-- Settles O1: the first test of R70 asks for nothing but the byte. -/
theorem startOpensFrame : Obligations.StartOpensFrame := exec_startFrame

/-- Settles O2: the second test of R70 is the same for END and for every other byte that is no START. -/
theorem idleByteIsDropped : Obligations.IdleByteIsDropped := by
  intro s hi
  have hdrop : ∀ b, b ≠ s.cfg.startByte → rx b s = { s with report := .received .evDesync none } :=
    fun b hb => rx_desync hb hi
  refine ⟨fun hne => congrArg _ (hdrop _ hne.symm), fun b hb => ⟨congrArg _ (hdrop b hb), ?_⟩⟩
  rw [exec_decodeByte, hdrop b hb]

/-- Settles O3: with a free slot the `QPUSH` inside the END step succeeds. -/
theorem endAcceptsFrame : Obligations.EndAcceptsFrame :=
  fun _ hne hi hq => ⟨congrArg _ (rx_endByte_free hne hi hq), rfl⟩

/-- Settles O4: on a full queue the `QPUSH` inside the END step fails. -/
theorem endOnFullQueueDropsFrame : Obligations.EndOnFullQueueDropsFrame :=
  fun _ hne hi hq => ⟨congrArg _ (rx_endByte_full hne hi hq), rfl⟩

/-- Settles O5: the append at the end of the kept bytes is the write of `PB[partial_length]`. -/
theorem dataAppends : Obligations.DataAppends := by
  intro s b hs he hi hl
  have hexec : exec (.data b) s = .next ((s.appendByte b).emit (.received .evAppend none)) :=
    congrArg _ (rx_payload_free ⟨hs, he⟩ hi (Nat.ne_of_lt hl))
  exact ⟨_, hexec, rfl, List.length_append, pb_appendByte_self s b, fun k hk => pb_appendByte_other s b hk⟩

/-- Settles O6: at `partial_length = P` the byte is reported and nothing is written. -/
theorem dataOverflowDropsByte : Obligations.DataOverflowDropsByte :=
  fun _ _ hs he hi hl => congrArg _ (rx_payload_full ⟨hs, he⟩ hi hl)

/-- Settles O32: of the six cases of R70 only END-ACCEPT writes the queue, and it alone has a result. -/
theorem resultIsTheEnqueuedMessage : Obligations.ResultIsTheEnqueuedMessage := by
  intro s b
  refine ⟨_, exec_decodeByte s b, ?_⟩
  obtain ⟨hs, e⟩ | ⟨-, hi, e⟩ | ⟨hs, hi, he, hq, e⟩ | ⟨-, -, -, hq, e⟩ | ⟨-, -, he, -, e⟩ | ⟨-, -, he, -, e⟩ :=
    rx_cases b s <;> rw [e]
  case inr.inr.inl => exact .inl ⟨⟨hs, he, hi, hq⟩, _, rfl, rfl⟩
  all_goals refine .inr ⟨?_, rfl, rfl, Event.noConfusion⟩
  · exact fun ⟨hs', _⟩ => hs' hs
  · exact fun ⟨_, _, hi', _⟩ => by rw [hi] at hi'; cases hi'
  · exact fun ⟨_, _, _, hq'⟩ => hq' hq
  · exact fun ⟨_, he', _⟩ => he he'
  · exact fun ⟨_, he', _⟩ => he he'

end Sys2Proof
end

section
/-! The two frames at the ends of the range of lengths: the empty frame (R80) and the oversized one (R78). -/

namespace Sys2Proof

open Sys2Proof.Machine Sys2Proof.Laws

/-- R55: no byte at all is the same Message as the one byte 0x00. -/
theorem mkMessage_nil (c : Config) : mkMessage c [] = { code := 0#8, args := zeros c.A } :=
  (trailingZeroIsPadding c []).symm.trans (mkMessage_singleton c 0#8)

theorem execAll_start_end (s : State) :
    execAll [.startFrame, .endFrame] s =
      .next (rx s.cfg.endByte (s.openFrame.emit (.received .evStart none))) := by
  rw [execAll, exec_startFrame]
  rfl

/-- Settles O39: between START and END nothing is kept, and 0x00 is no inbound code. -/
theorem emptyFrameMakesZeroMessage : Obligations.EmptyFrameMakesZeroMessage := by
  rintro s ⟨hne, -⟩
  refine ⟨fun hq => ⟨_, execAll_start_end s, ?_⟩, fun hq => (execAll_start_end s).trans ?_,
    mkMessage_singleton s.cfg 0#8, fun _ _ => rfl⟩
  · rw [← mkMessage_nil]
    exact rx_endByte_free (s := s.openFrame.emit (.received .evStart none)) hne rfl hq
  · exact congrArg _ (rx_endByte_full (s := s.openFrame.emit (.received .evStart none)) hne rfl hq)

/-- R77: on a full partial buffer any number of payload bytes changes at most the last report. -/
theorem execAll_overflow {s : State} {extra : List Byte} (hi : s.inProgress = true)
    (hl : s.partialLength = s.cfg.P) (hextra : ∀ b ∈ extra, Payload s.cfg b) (is : List Instr) :
    ∃ r, execAll (extra.map Instr.data ++ is) s = execAll is (s.emit r) := by
  induction extra generalizing s with
  | nil => exact ⟨s.report, rfl⟩
  | cons b extra ih =>
    obtain ⟨hb, hextra⟩ := List.forall_mem_cons.1 hextra
    obtain ⟨r, hr⟩ := ih (s := s.emit (.received .evOverflow none)) hi hl hextra
    have hexec : exec (.data b) s = .next (s.emit (.received .evOverflow none)) :=
      congrArg _ (rx_payload_full hb hi hl)
    refine ⟨r, ?_⟩
    rw [List.map_cons, List.cons_append, execAll, hexec]
    exact hr

/-- Settles O40: the END finds the state that the overflowing bytes found. -/
theorem endAfterOverflowKeepsFirstBytes : Obligations.EndAfterOverflowKeepsFirstBytes := by
  rintro s extra ⟨hne, -⟩ hi hl hextra
  obtain ⟨r, hr⟩ := execAll_overflow hi hl hextra [.endFrame]
  rw [hr]
  exact ⟨fun hq => congrArg Host.Outcome.next (rx_endByte_free (s := s.emit r) hne hi hq),
    fun hq => congrArg Host.Outcome.next (rx_endByte_full (s := s.emit r) hne hi hq)⟩

end Sys2Proof
end

section
/-! What a sequence of bytes makes of the Decoder State (R82): in frame it keeps the first `P` of the bytes since the
last START, and between frames nothing. -/

namespace Sys2Proof

open Sys2Proof.Machine Sys2Proof.Laws

/-- The `RX`s of a sequence of bytes, one after another (R37). -/
def rxAll (bytes : List Byte) (s : State) : State := bytes.foldl (fun t b => rx b t) s

theorem rxAll_cons (b : Byte) (bs : List Byte) (s : State) : rxAll (b :: bs) s = rxAll bs (rx b s) := rfl

theorem rxAll_append (bs bs' : List Byte) (s : State) : rxAll (bs ++ bs') s = rxAll bs' (rxAll bs s) :=
  List.foldl_append

theorem rxAll_cfg (bytes : List Byte) (s : State) : (rxAll bytes s).cfg = s.cfg := by
  induction bytes generalizing s with
  | nil => rfl
  | cons b bs ih => exact (ih (rx b s)).trans (rx_cfg b s)

/-- Feeding a stream completes: it is the `RX`s of its bytes. -/
theorem feed_eq_rxAll {c : Config} {s : State} (h : s.cfg = c) (bytes : List Byte) :
    feed c bytes s = .next (rxAll bytes s) := by
  induction bytes generalizing s with
  | nil => rfl
  | cons b bs ih => exact (feed_cons h b bs).trans (ih ((rx_cfg b s).trans h))

/-- R82: the Decoder State is that of an open frame whose payload bytes since its START are `d`, of which the first `P`
are kept, or, with `none`, of no frame. -/
structure DecoderHolds (s : State) (d : Option (List Byte)) : Prop where
  inProgress : s.inProgress = d.isSome
  partialBuffer : s.partialBuffer = (d.getD []).take s.cfg.P

/-- R71, R73: whatever the state, after a START the frame has no byte yet. -/
theorem rx_start_holds (s : State) : DecoderHolds (rx s.cfg.startByte s) (some []) := by
  rw [rx_start rfl]
  exact ⟨rfl, List.take_nil.symm⟩

/-- R72, R76, R77: a payload byte joins the open frame, if there is one, beyond `P` without being kept. -/
theorem rx_payload_holds {s : State} {d : Option (List Byte)} {b : Byte} (hb : Payload s.cfg b)
    (h : DecoderHolds s d) : DecoderHolds (rx b s) (d.map (· ++ [b])) := by
  obtain ⟨hi, hpb⟩ := h
  cases d with
  | none => rw [rx_desync hb.1 hi]; exact ⟨hi, hpb⟩
  | some d =>
    have hpb : s.partialBuffer = d.take s.cfg.P := hpb
    have hlen : s.partialLength = min s.cfg.P d.length := by rw [State.partialLength, hpb, List.length_take]
    by_cases hl : s.partialLength = s.cfg.P
    · rw [rx_payload_full hb hi hl]
      refine ⟨hi, hpb.trans ?_⟩
      exact (List.take_append_of_le_length (by omega)).symm
    · rw [rx_payload_free hb hi hl]
      have hall : s.partialBuffer = d := hpb.trans (List.take_of_length_le (by omega))
      refine ⟨hi, ?_⟩
      show s.partialBuffer ++ [b] = (d ++ [b]).take s.cfg.P
      rw [hall, List.take_of_length_le]
      rw [List.length_append, List.length_singleton]
      omega

theorem rxAll_payload_holds {s : State} {d ds : List Byte} (h : DecoderHolds s (some d))
    (hds : ∀ b ∈ ds, Payload s.cfg b) : DecoderHolds (rxAll ds s) (some (d ++ ds)) := by
  induction ds generalizing s d with
  | nil => rwa [List.append_nil]
  | cons b ds ih =>
    obtain ⟨hb, hds⟩ := List.forall_mem_cons.1 hds
    rw [rxAll_cons, ← List.singleton_append, ← List.append_assoc]
    exact ih (rx_payload_holds hb h) (by rwa [rx_cfg])

/-- R85: a START and payload bytes after it decide the Decoder State, whatever came before them. -/
theorem rxAll_frame_holds (s : State) (before : List Byte) {ds : List Byte} (hds : ∀ b ∈ ds, Payload s.cfg b) :
    DecoderHolds (rxAll (before ++ s.cfg.startByte :: ds) s) (some ds) := by
  have hcfg := rxAll_cfg before s
  have hstart := rx_start_holds (rxAll before s)
  rw [hcfg] at hstart
  rw [rxAll_append, rxAll_cons]
  exact rxAll_payload_holds hstart (by rwa [rx_cfg, hcfg])

end Sys2Proof
end

section
/-! A frame decodes from any state (R85): bytes with consumer operations in between leave the Decoder State that the
bytes alone leave. -/

namespace Sys2Proof

open Sys2Proof.Machine Sys2Proof.Laws

/-- R74, R75: the END of a frame leaves the decoder idle, whatever the queue. -/
theorem rxEnd_idle (s : State) : (rxEnd s).inProgress = false ∧ (rxEnd s).partialBuffer = [] := by
  by_cases hq : s.queue.length = s.cfg.N
  · rw [rxEnd_full hq]; exact ⟨rfl, rfl⟩
  · rw [rxEnd_free hq]; exact ⟨rfl, rfl⟩

/-- The Decoder State after a byte depends on the Decoder State before it alone. -/
theorem rx_sameDecoder (b : Byte) {s t : State} (h : SameDecoder s t) : SameDecoder (rx b s) (rx b t) := by
  have hcfg : (rx b t).cfg = (rx b s).cfg := by rw [rx_cfg, rx_cfg, h.cfg]
  by_cases hclose : ClosesFrame b s
  · have hclose' : ClosesFrame b t := by rwa [ClosesFrame, h.cfg, h.inProgress]
    obtain ⟨hi, hpb⟩ := rxEnd_idle s
    obtain ⟨hi', hpb'⟩ := rxEnd_idle t
    rw [rx_closesFrame hclose, rx_closesFrame hclose'] at hcfg ⊢
    exact ⟨hcfg, hi'.trans hi.symm, hpb'.trans hpb.symm⟩
  · obtain ⟨f, buf, r, hrx⟩ := rx_local hclose
    rw [hrx s ⟨rfl, rfl, rfl⟩, hrx t h]
    exact ⟨h.cfg, rfl, rfl⟩

/-- R38, R94: an operation of the consumer completes and leaves the Decoder State. -/
theorem exec_consumerOp {i : Instr} (hi : isConsumerOp i = true) (s : State) :
    ∃ t, exec i s = .next t ∧ SameDecoder s t := by
  obtain ⟨t, h⟩ := exists_exec_next (i := i) (by rintro rfl; cases hi) s
  refine ⟨t, h, ?_⟩
  obtain ⟨b, hb, -⟩ | ⟨r, -, rfl⟩ | ⟨-, rfl⟩ | ⟨m, rfl, -⟩ | ⟨-, rfl⟩ | ⟨rfl, -⟩ := exec_next_cases h
  · obtain ⟨rfl, -⟩ | ⟨rfl, -⟩ | rfl := hb <;> cases hi
  · exact ⟨rfl, rfl, rfl⟩
  · obtain ⟨-, e⟩ | ⟨m, rest, -, e⟩ := qpop_cases s <;> rw [e] <;> exact ⟨rfl, rfl, rfl⟩
  · cases hi
  · exact ⟨rfl, rfl, rfl⟩
  · cases hi

theorem isRx_eq_false_of_isConsumerOp {i : Instr} (h : isConsumerOp i = true) : isRx i = false := by
  cases i <;> cases h <;> rfl

theorem SameDecoder.trans {s t u : State} (h : SameDecoder s t) (h' : SameDecoder t u) : SameDecoder s u :=
  ⟨h'.cfg.trans h.cfg, h'.inProgress.trans h.inProgress, h'.partialBuffer.trans h.partialBuffer⟩

/-- A run of bytes with consumer operations in between completes, with the Decoder State that the bytes alone make of
an equal one. -/
theorem execAll_interleaved {ops : List Instr} {bytes : List Byte} {s s' : State} (hs : SameDecoder s s')
    (hops : ∀ i ∈ ops, isRx i = true ∨ isConsumerOp i = true)
    (hbytes : ops.filter isRx = bytes.map (decodeByte s.cfg)) :
    ∃ u, execAll ops s' = .next u ∧ SameDecoder (rxAll bytes s) u := by
  induction ops generalizing bytes s s' with
  | nil =>
    obtain rfl := List.map_eq_nil_iff.1 hbytes.symm
    exact ⟨s', rfl, hs⟩
  | cons i ops ih =>
    obtain ⟨hi, hrest⟩ := List.forall_mem_cons.1 hops
    obtain hrx | hcons := hi
    · rw [List.filter_cons_of_pos hrx] at hbytes
      obtain ⟨b, bs, rfl, rfl, htail⟩ := List.map_eq_cons_iff.1 hbytes.symm
      obtain ⟨u, hu, hsame⟩ := ih (rx_sameDecoder b hs) hrest (by rw [rx_cfg]; exact htail.symm)
      refine ⟨u, execAll_cons_next.2 ⟨_, ?_, hu⟩, hsame⟩
      rw [← hs.cfg, exec_decodeByte]
    · rw [List.filter_cons_of_neg (by simp [isRx_eq_false_of_isConsumerOp hcons])] at hbytes
      obtain ⟨t, ht, hsame⟩ := exec_consumerOp hcons s'
      obtain ⟨u, hu, hu'⟩ := ih (hs.trans hsame) hrest hbytes
      exact ⟨u, execAll_cons_next.2 ⟨t, ht, hu⟩, hu'⟩

/-- R54: stray STARTs and a frame, split before the END. -/
theorem strays_encodeFrame (c : Config) (strays : Nat) (code : Byte) (args : List Byte) :
    List.replicate strays c.startByte ++ encodeFrame c code args =
      (List.replicate strays c.startByte ++ c.startByte :: code :: args) ++ [c.endByte] := by
  simp [encodeFrame]

/-- Settles O41: at the END the decoder holds the frame's code and arguments, which are at most `P` bytes. -/
theorem frameDecodesFromAnyState : Obligations.FrameDecodesFromAnyState := by
  rintro s code args strays ops ⟨hne, hP, -⟩ hcode hargs hlen hops hbytes
  rw [strays_encodeFrame, List.map_append, List.map_singleton, decodeByte_end hne, List.append_cancel_right_eq]
    at hbytes
  obtain ⟨u, hu, hsame⟩ := execAll_interleaved ⟨rfl, rfl, rfl⟩ hops hbytes
  obtain ⟨hi, hpb⟩ := rxAll_frame_holds s (List.replicate strays s.cfg.startByte)
    (List.forall_mem_cons.2 ⟨hcode, hargs⟩)
  have hcfg : u.cfg = s.cfg := hsame.cfg.trans (rxAll_cfg _ s)
  have hkept : u.partialBuffer = code :: args := by
    rw [hsame.partialBuffer, hpb, rxAll_cfg]
    refine List.take_of_length_le ?_
    simp only [Option.getD_some, List.length_cons]
    omega
  refine ⟨u, hu, fun hq => ?_⟩
  obtain ⟨hend, -⟩ := endAcceptsFrame u (hcfg ▸ hne) (hsame.inProgress.trans hi) (hcfg ▸ hq)
  rw [hkept, hcfg] at hend
  exact ⟨_, hend, rfl, rfl, rfl, rfl⟩

end Sys2Proof
end

section
/-! What a byte stream decodes to (R86): the decoder holds the open frame of the piece of stream since the last END, and
each END adds that frame's Message as long as a slot is free. -/

namespace Sys2Proof

open Sys2Proof.Machine Sys2Proof.Laws

/-- A START at the end of a piece is its last; any other byte comes after the last START, if there is one. -/
theorem afterLastStart_concat (c : Config) (piece : List Byte) (b : Byte) :
    afterLastStart c (piece ++ [b]) =
      if b = c.startByte then some [] else (afterLastStart c piece).map (· ++ [b]) := by
  induction piece with
  | nil => rfl
  | cons x xs ih =>
    rw [List.cons_append, afterLastStart, ih, afterLastStart]
    by_cases hb : b = c.startByte
    · rw [if_pos hb, if_pos hb]
    · rw [if_neg hb, if_neg hb]
      cases afterLastStart c xs with
      | some d => rfl
      | none => by_cases hx : x = c.startByte <;> simp [hx]

/-- A byte that is no END lengthens the piece. -/
theorem rx_piece_holds {s : State} {piece : List Byte} {b : Byte} (he : b ≠ s.cfg.endByte)
    (h : DecoderHolds s (afterLastStart s.cfg piece)) :
    DecoderHolds (rx b s) (afterLastStart s.cfg (piece ++ [b])) := by
  rw [afterLastStart_concat]
  by_cases hs : b = s.cfg.startByte
  · subst hs
    rw [if_pos rfl]
    exact rx_start_holds s
  · rw [if_neg hs]
    exact rx_payload_holds ⟨hs, he⟩ h

/-- R72, R74, R75: an END leaves no frame, and adds the open frame's Message, if there is one and a slot is free. -/
theorem rx_endByte_holds {s : State} {d : Option (List Byte)} (hne : s.cfg.startByte ≠ s.cfg.endByte)
    (hN : s.queue.length ≤ s.cfg.N) (h : DecoderHolds s d) :
    DecoderHolds (rx s.cfg.endByte s) none ∧
      (rx s.cfg.endByte s).queue = s.queue ++
        (d.map fun d => mkMessage s.cfg (d.take s.cfg.P)).toList.take (s.cfg.N - s.queue.length) := by
  obtain ⟨hi, hpb⟩ := h
  cases d with
  | none =>
    rw [rx_desync hne.symm hi]
    exact ⟨⟨hi, hpb⟩, by simp [rxDesync]⟩
  | some d =>
    have hpb : s.partialBuffer = d.take s.cfg.P := hpb
    obtain hq | hq := Nat.eq_or_lt_of_le hN
    · rw [rx_endByte_full hne hi hq]
      exact ⟨⟨rfl, List.take_nil.symm⟩, by simp [hq]⟩
    · rw [rx_endByte_free hne hi hq, hpb]
      obtain ⟨k, hk⟩ : ∃ k, s.cfg.N - s.queue.length = k + 1 := ⟨_, (Nat.succ_pred (by omega)).symm⟩
      exact ⟨⟨rfl, List.take_nil.symm⟩, by simp [hk]⟩

/-- R86: Messages added to a queue up to its capacity, first some, then others, are added in one. -/
theorem append_take_append_take {α : Type} (q xs ys : List α) {N : Nat} :
    (q ++ xs.take (N - q.length)) ++ ys.take (N - (q ++ xs.take (N - q.length)).length) =
      q ++ (xs ++ ys).take (N - q.length) := by
  rw [List.append_assoc, List.take_append, List.length_append, List.length_take]
  congr 3
  omega

/-- R17: a byte never moves `rd_ptr`. -/
theorem rx_rdPtr (b : Byte) (s : State) : (rx b s).rdPtr = s.rdPtr := by
  obtain ⟨-, e⟩ | ⟨-, -, e⟩ | ⟨-, -, -, -, e⟩ | ⟨-, -, -, -, e⟩ | ⟨-, -, -, -, e⟩ | ⟨-, -, -, -, e⟩ := rx_cases b s <;>
    rw [e] <;> rfl

theorem rxAll_rdPtr (bytes : List Byte) (s : State) : (rxAll bytes s).rdPtr = s.rdPtr := by
  induction bytes generalizing s with
  | nil => rfl
  | cons b bs ih => exact (ih (rx b s)).trans (rx_rdPtr b s)

/-- R86, from a decoder that holds what the piece of stream since the last END leaves open. -/
theorem rxAll_queue {bytes piece : List Byte} {s : State} (hne : s.cfg.startByte ≠ s.cfg.endByte)
    (hN : s.queue.length ≤ s.cfg.N) (h : DecoderHolds s (afterLastStart s.cfg piece)) :
    (rxAll bytes s).queue =
      s.queue ++ (streamMessagesFrom s.cfg piece bytes).take (s.cfg.N - s.queue.length) := by
  induction bytes generalizing s piece with
  | nil => exact (List.append_nil _).symm.trans (congrArg _ List.take_nil.symm)
  | cons b bs ih =>
    have hcfg := rx_cfg b s
    rw [rxAll_cons, streamMessagesFrom]
    by_cases he : b = s.cfg.endByte
    · subst he
      obtain ⟨hidle, hqueue⟩ := rx_endByte_holds hne hN h
      have hbound : (rx s.cfg.endByte s).queue.length ≤ s.cfg.N := by
        rw [hqueue, List.length_append, List.length_take]; omega
      have hrest := ih (piece := []) (by rwa [hcfg]) (by rwa [hcfg]) hidle
      rw [hcfg, hqueue] at hrest
      rw [if_pos rfl, hrest]
      exact append_take_append_take _ _ _
    · have hqueue : (rx b s).queue = s.queue :=
        (rx_queue_cases b s).resolve_right fun ⟨_, he', _⟩ => he he'
      have hrest := ih (piece := piece ++ [b]) (by rwa [hcfg]) (by rwa [hcfg, hqueue])
        (by rw [hcfg]; exact rx_piece_holds he h)
      rw [if_neg he, hrest, hcfg, hqueue]

/-- Settles O42: an idle decoder holds what the empty piece leaves open. -/
theorem streamDecodesToItsFrames : Obligations.StreamDecodesToItsFrames := by
  rintro s bytes ⟨hne, -⟩ hi hpb hN
  have hidle : DecoderHolds s (afterLastStart s.cfg []) := ⟨hi, hpb.trans List.take_nil.symm⟩
  exact ⟨_, feed_eq_rxAll rfl bytes, rxAll_queue hne hN hidle, rxAll_rdPtr bytes s⟩

end Sys2Proof
end

section
/-! The Message Queue's operations one by one (spec/41_message_queue.md R91 to R95): the whole next state of each. -/

namespace Sys2Proof

open Sys2Proof.Machine Sys2Proof.Laws

/-- R93: `FULL` is the test of `QPUSH`. -/
theorem full_eq_true_iff (s : State) : s.full = true ↔ s.queue.length = s.cfg.N := decide_eq_true_iff

/-- R93: `EMPTY` is the test of `POP`. -/
theorem empty_eq_true_iff (s : State) : s.empty = true ↔ s.queue.length = 0 := decide_eq_true_iff

/-- Settles O7: the test for a free slot decides between the two answers, and one Message more fills the last slot. -/
theorem qpushTriesToAppend : Obligations.QpushTriesToAppend := by
  refine fun s m => ⟨exec_qpush_full m, exec_qpush_free m, fun hlast => ?_⟩
  rw [full_eq_true_iff]
  exact List.length_append.trans hlast

/-- Settles O8: the queue's shape decides between the two answers, and without its head a full queue has a free slot. -/
theorem popRemovesOldest : Obligations.PopRemovesOldest := by
  refine fun s => ⟨exec_pop_empty, fun m rest hq => ⟨exec_pop_cons hq, fun hfull => ?_⟩⟩
  rw [← Bool.not_eq_true, full_eq_true_iff]
  rw [hq, List.length_cons] at hfull
  exact Nat.ne_of_lt (Nat.lt_of_succ_le hfull.le)

/-- Settles O9: `CLEAR` writes the same values into every state, so once more it changes nothing. -/
theorem clearEmptiesQueueOnly : Obligations.ClearEmptiesQueueOnly := by
  refine fun s => ⟨rfl, rfl, rfl, rfl, fun hN => ?_, Nat.zero_mod _⟩
  rw [← Bool.not_eq_true, full_eq_true_iff]
  exact Nat.ne_of_lt hN

/-- Settles O10: `NOP` replaces the report alone. -/
theorem nopDoesNothing : Obligations.NopDoesNothing := fun _ => ⟨rfl, rfl, rfl⟩

/-- Settles O11: a status read replaces the report alone, and the flags are tests of the queue's length. -/
theorem statusReads : Obligations.StatusReads :=
  fun s => ⟨rfl, rfl, rfl, rfl, empty_eq_true_iff s, full_eq_true_iff s⟩

end Sys2Proof
end

section
/-! The laws of the queue over every sequence of operations: its bound (R99) and its order (R98). Each is kept by one
operation, hence by a run. -/

namespace Sys2Proof

open Sys2Proof.Machine Sys2Proof.Laws

/-- R91: an append happens only where a slot is free, so it stays within the capacity. -/
theorem length_concat_le {q : List Message} {m : Message} {N : Nat} (hN : q.length ≤ N) (hfree : q.length ≠ N) :
    (q ++ [m]).length ≤ N := by
  rw [List.length_append, List.length_singleton]
  omega

/-- INV3 by itself, from states that need not meet INV1 or INV2. -/
theorem rx_queue_le (b : Byte) {s : State} (h : s.queue.length ≤ s.cfg.N) :
    (rx b s).queue.length ≤ (rx b s).cfg.N := by
  obtain ⟨-, e⟩ | ⟨-, -, e⟩ | ⟨-, -, -, hfree, e⟩ | ⟨-, -, -, -, e⟩ | ⟨-, -, -, -, e⟩ | ⟨-, -, -, -, e⟩ :=
    rx_cases b s <;> rw [e]
  case inr.inr.inl => exact length_concat_le h hfree
  all_goals exact h

/-- INV3 by itself: an operation adds a Message only to a free slot. -/
theorem exec_queue_le {i : Instr} {s t : State} (h : s.queue.length ≤ s.cfg.N) (hexec : exec i s = .next t) :
    t.queue.length ≤ t.cfg.N := by
  obtain ⟨b, -, rfl⟩ | ⟨r, -, rfl⟩ | ⟨-, rfl⟩ | ⟨m, -, rfl⟩ | ⟨-, rfl⟩ | ⟨-, rfl⟩ := exec_next_cases hexec
  · exact rx_queue_le b h
  · exact h
  · obtain ⟨-, e⟩ | ⟨m, rest, hq, e⟩ := qpop_cases s <;> rw [e]
    · exact h
    · rw [hq] at h
      exact Nat.le_of_succ_le h
  · obtain ⟨-, e⟩ | ⟨hfree, e⟩ := qpush_cases s m <;> rw [e]
    · exact h
    · exact length_concat_le h hfree
  · exact Nat.zero_le _
  · exact Nat.zero_le _

theorem execAll_queue_le {is : List Instr} {s t : State} (h : s.queue.length ≤ s.cfg.N)
    (hrun : execAll is s = .next t) : t.queue.length ≤ t.cfg.N := by
  induction is generalizing s with
  | nil => cases hrun; exact h
  | cons i is ih =>
    obtain ⟨u, hi, his⟩ := execAll_cons_next.1 hrun
    exact ih (exec_queue_le h hi) his

/-- Settles O33: every operation keeps INV3; the answers of `QPUSH` and `POP` are those of their tests. -/
theorem queueBoundLaw : Obligations.QueueBoundLaw := by
  refine ⟨fun is s t => execAll_queue_le, fun s m => ?_, fun s => ?_⟩
  · by_cases hq : s.queue.length = s.cfg.N
    · exact ⟨_, false, exec_qpush_full m hq, rfl, iff_of_true rfl hq, fun _ => rfl⟩
    · exact ⟨_, true, exec_qpush_free m hq, rfl, iff_of_false Bool.noConfusion hq, Bool.noConfusion⟩
  · cases hq : s.queue with
    | nil => exact ⟨_, none, exec_pop_empty hq, rfl, iff_of_true rfl rfl⟩
    | cons m rest => exact ⟨_, some m, exec_pop_cons hq, rfl, iff_of_false (Option.some_ne_none m) (Nat.succ_ne_zero _)⟩

/-- R98 as an invariant: what was pushed and not deleted is what was popped, followed by what is still queued. -/
def Accounts (h : History) (s : State) : Prop := h.pushed = h.popped ++ s.queue

/-- The history notes the Message a byte enqueued, whichever of the three operations the byte is. -/
theorem note_rx {i : Instr} {c : Config} {b : Byte} (r : Report) (h : History)
    (hi : i = .startFrame ∧ b = c.startByte ∨ i = .endFrame ∧ b = c.endByte ∨ i = .data b) :
    h.note i r = { h with pushed := h.pushed ++ r.accepted.toList } := by
  obtain ⟨rfl, -⟩ | ⟨rfl, -⟩ | rfl := hi <;> rfl

/-- A Message added to the queue is added to the pushed ones. -/
theorem accounts_append {h : History} {s t : State} {ms : List Message} (hs : Accounts h s)
    (ht : t.queue = s.queue ++ ms) : Accounts { h with pushed := h.pushed ++ ms } t := by
  rw [Accounts, hs, ht, List.append_assoc]

/-- The oldest queued Message is the first of the pushed ones that is not popped. -/
theorem accounts_pop {h : History} {s t : State} {m : Message} (hs : Accounts h s) (ht : s.queue = m :: t.queue) :
    Accounts { h with popped := h.popped ++ [m] } t := by
  rw [Accounts, hs, ht, List.append_assoc, List.singleton_append]

/-- Deleting what is pushed and not popped accounts for an empty queue. -/
theorem accounts_delete {h : History} {s t : State} (hs : Accounts h s) (ht : t.queue = []) :
    Accounts { h with pushed := h.pushed.take h.popped.length } t := by
  rw [Accounts, hs, ht, List.take_left, List.append_nil]

/-- R98: every operation keeps the account, the history noting what it reports. -/
theorem exec_accounts {i : Instr} {s t : State} {h : History} (hs : Accounts h s) (hexec : exec i s = .next t) :
    Accounts (h.note i t.report) t := by
  obtain ⟨b, hi, rfl⟩ | ⟨r, hi, rfl⟩ | ⟨rfl, rfl⟩ | ⟨m, rfl, rfl⟩ | ⟨rfl, rfl⟩ | ⟨rfl, rfl⟩ := exec_next_cases hexec
  · rw [note_rx _ h hi]
    exact accounts_append hs (rx_queue b s)
  · obtain ⟨rfl, -⟩ | ⟨rfl, -⟩ | ⟨rfl, -⟩ := hi <;> exact hs
  · obtain ⟨-, e⟩ | ⟨m, rest, hq, e⟩ := qpop_cases s <;> rw [e]
    · exact hs.trans (congrArg (· ++ s.queue) (List.append_nil _).symm)
    · exact accounts_pop hs hq
  · obtain ⟨-, e⟩ | ⟨-, e⟩ := qpush_cases s m <;> rw [e]
    · exact accounts_append hs (List.append_nil _).symm
    · exact accounts_append hs rfl
  · exact accounts_delete hs rfl
  · exact accounts_delete hs rfl

theorem runHistory_cons {i : Instr} {is : List Instr} {s : State} {h : History} {r : State × History}
    (hrun : runHistory (i :: is) s h = some r) :
    ∃ t, exec i s = .next t ∧ runHistory is t (h.note i t.report) = some r := by
  rw [runHistory] at hrun
  cases he : exec i s with
  | next t => rw [he] at hrun; exact ⟨t, rfl, hrun⟩
  | fault f => cases f
  | refused f => rw [he] at hrun; cases hrun

theorem runHistory_accounts {is : List Instr} {s t : State} {h h' : History} (hs : Accounts h s)
    (hrun : runHistory is s h = some (t, h')) : Accounts h' t := by
  induction is generalizing s h with
  | nil => cases hrun; exact hs
  | cons i is ih =>
    obtain ⟨u, hi, his⟩ := runHistory_cons hrun
    exact ih (exec_accounts hs hi) his

/-- Settles O34: with nothing popped the queue accounts for itself, and every operation keeps the account. -/
theorem fifoLaw : Obligations.FifoLaw := by
  intro is s t h hrun
  have hstart : Accounts { pushed := s.queue, popped := [] } s := (List.nil_append s.queue).symm
  have haccount : Accounts h t := runHistory_accounts hstart hrun
  exact ⟨haccount, t.queue, haccount.symm⟩

end Sys2Proof
end

section
/-! The pointers of the queue (R96, R97): each steps to the next slot with its own operation, and they meet only when
the queue is empty or full. -/

namespace Sys2Proof

open Sys2Proof.Machine Sys2Proof.Laws

/-- R97: the pointer after slot `N-1` is slot 0. -/
theorem nextPtr_eq_ite {c : Config} {p : Nat} (hp : p < c.N) :
    nextPtr c p = if p + 1 = c.N then 0 else p + 1 := by
  split
  case isTrue hlast => rw [nextPtr, hlast, Nat.mod_self]
  case isFalse hlast => exact Nat.mod_eq_of_lt (by omega)

/-- INV4: going on by `count` slots leads back to `rd_ptr` from an empty and from a full queue only. -/
theorem wrPtr_eq_rdPtr_iff {s : State} (hr : s.rdPtr < s.cfg.N) (hN : s.queue.length ≤ s.cfg.N) :
    s.wrPtr = s.rdPtr ↔ s.count = 0 ∨ s.count = s.cfg.N := by
  rw [State.wrPtr, State.count]
  obtain hwrap | hwrap := Nat.lt_or_ge (s.rdPtr + s.queue.length) s.cfg.N
  · rw [Nat.mod_eq_of_lt hwrap]
    omega
  · rw [Nat.mod_eq_sub_mod hwrap, Nat.mod_eq_of_lt (by omega)]
    omega

/-- R96: an append moves `wr_ptr` to the next slot. -/
theorem wrPtr_enqueue (s : State) (m : Message) :
    ({ s with queue := s.queue ++ [m] } : State).wrPtr = nextPtr s.cfg s.wrPtr := by
  simp only [State.wrPtr, nextPtr, Nat.mod_add_mod, List.length_append, List.length_singleton, Nat.add_assoc]

/-- R96: the removal of the oldest Message leaves `wr_ptr`. -/
theorem wrPtr_dequeue {s : State} {m : Message} {rest : List Message} (hq : s.queue = m :: rest) :
    ({ s with queue := rest, rdPtr := nextPtr s.cfg s.rdPtr } : State).wrPtr = s.wrPtr := by
  rw [State.wrPtr, State.wrPtr, nextPtr_add_mod, hq, List.length_cons]

/-- Settles O37: `QPUSH` moves `wr_ptr` alone, since INV4 counts the Message it appends; `POP` moves `rd_ptr` alone,
since the Message it removes is one less to count from there. -/
theorem pointersStepModuloN : Obligations.PointersStepModuloN := by
  refine fun s hc hr hN => ⟨wrPtr_lt hc, wrPtr_eq_rdPtr_iff hr hN, fun m hfree => ?_, fun hpos => ?_⟩
  · exact ⟨_, exec_qpush_free m (Nat.ne_of_lt hfree), (wrPtr_enqueue s m).trans (nextPtr_eq_ite (wrPtr_lt hc)), rfl,
      List.length_append⟩
  · obtain ⟨m, rest, hq⟩ := List.exists_cons_of_length_pos hpos
    exact ⟨_, exec_pop_cons hq, nextPtr_eq_ite hr, wrPtr_dequeue hq, (congrArg List.length hq).symm⟩

end Sys2Proof
end

section
/-! The pointer implementation refines the abstract queue (R104): each of its operations keeps its invariants (R17), and
under the abstraction function it is the append, the removal of the head, or the clearing of a sequence. -/

namespace Sys2Proof

open Sys2Proof.Machine Sys2Proof.Laws

section

variable {N : Nat} {r : RefQueue}

theorem refPush_full (m : Message) (h : r.count = N) : r.push N m = (false, r) := if_pos h

theorem refPush_free (m : Message) (h : r.count ≠ N) :
    r.push N m = (true,
      { slots := r.slots.set r.wrPtr m, wrPtr := (r.wrPtr + 1) % N, rdPtr := r.rdPtr, count := r.count + 1 }) :=
  if_neg h

theorem refPop_empty (h : r.count = 0) : r.pop N = (none, r) := if_pos h

theorem refPop_occupied (h : r.count ≠ 0) :
    r.pop N = (r.slots[r.rdPtr]?, { r with rdPtr := (r.rdPtr + 1) % N, count := r.count - 1 }) := if_neg h

theorem refPush_inv (m : Message) (h : RefQueue.Inv N r) : RefQueue.Inv N (r.push N m).2 := by
  obtain ⟨hslots, hrd, hwr, hcount, inv4⟩ := h
  by_cases hfull : r.count = N
  · rw [refPush_full m hfull]
    exact ⟨hslots, hrd, hwr, hcount, inv4⟩
  · rw [refPush_free m hfull]
    refine ⟨List.length_set.trans hslots, hrd, Nat.mod_lt _ (by omega), by dsimp only; omega, ?_⟩
    dsimp only
    rw [inv4, Nat.mod_add_mod, Nat.add_assoc]

theorem refPop_inv (h : RefQueue.Inv N r) : RefQueue.Inv N (r.pop N).2 := by
  obtain ⟨hslots, hrd, hwr, hcount, inv4⟩ := h
  by_cases hempty : r.count = 0
  · rw [refPop_empty hempty]
    exact ⟨hslots, hrd, hwr, hcount, inv4⟩
  · rw [refPop_occupied hempty]
    refine ⟨hslots, Nat.mod_lt _ (by omega), hwr, by dsimp only; omega, ?_⟩
    dsimp only
    rw [inv4, Nat.mod_add_mod, show r.rdPtr + 1 + (r.count - 1) = r.rdPtr + r.count by omega]

theorem refClear_inv (h : RefQueue.Inv N r) : RefQueue.Inv N r.clear := by
  have hN : 0 < N := Nat.zero_lt_of_lt h.rdPtr_lt
  exact ⟨h.slots_length, hN, hN, Nat.zero_le N, (Nat.zero_mod N).symm⟩

/-- R17: what the abstraction function reads, `c` slots from slot `p` on. -/
def readSlots (N : Nat) (slots : List Message) (p c : Nat) : List Message :=
  (List.range c).filterMap fun i => slots[(p + i) % N]?

theorem abs_eq_readSlots (N : Nat) (r : RefQueue) : r.abs N = readSlots N r.slots r.rdPtr r.count := rfl

section

variable {slots : List Message} {p c : Nat} {m : Message}

/-- One slot more is read behind the others. -/
theorem readSlots_succ_last (h : slots[(p + c) % N]? = some m) :
    readSlots N slots p (c + 1) = readSlots N slots p c ++ [m] := by
  rw [readSlots, List.range_succ, List.filterMap_append,
    List.filterMap_cons_some (f := fun i => slots[(p + i) % N]?) h, List.filterMap_nil, readSlots]

/-- The first slot is read before those that the next pointer reads. -/
theorem readSlots_succ_head (h : slots[p % N]? = some m) :
    readSlots N slots p (c + 1) = m :: readSlots N slots ((p + 1) % N) c := by
  have hrest : ∀ i, (p + (i + 1)) % N = ((p + 1) % N + i) % N := fun i => by
    rw [Nat.mod_add_mod, Nat.add_assoc, Nat.add_comm 1]
  rw [readSlots, List.range_succ_eq_map, List.filterMap_cons_some (f := fun i => slots[(p + i) % N]?) h,
    List.filterMap_map]
  exact congrArg (m :: ·) (List.filterMap_congr fun i _ => congrArg (slots[·]?) (hrest i))

/-- The slot behind the `c` places of a queue with room is none of theirs. -/
theorem slotIndex_ne {i : Nat} (hi : i < c) (hc : c < N) : (p + i) % N ≠ (p + c) % N := fun h =>
  hi.ne ((Nat.ModEq.add_left_cancel' p h).eq_of_lt_of_lt (hi.trans hc) hc)

/-- A write to the slot behind the places read leaves what they hold. -/
theorem readSlots_set (m : Message) (hc : c < N) :
    readSlots N (slots.set ((p + c) % N) m) p c = readSlots N slots p c :=
  List.filterMap_congr fun _ hi => List.getElem?_set_ne (slotIndex_ne (List.mem_range.1 hi) hc).symm

end

/-- R17: the slot `i` places after `rd_ptr` exists. -/
theorem exists_slot (h : RefQueue.Inv N r) (i : Nat) : ∃ m, r.slots[(r.rdPtr + i) % N]? = some m := by
  have hlt : (r.rdPtr + i) % N < r.slots.length :=
    h.slots_length.symm ▸ Nat.mod_lt _ (Nat.zero_lt_of_lt h.rdPtr_lt)
  exact ⟨_, List.getElem?_eq_getElem hlt⟩

/-- R17: no slot that the abstraction function names is missing, so it reads one Message per place. -/
theorem exists_abs_eq_map (h : RefQueue.Inv N r) :
    ∃ g : Nat → Message, r.abs N = (List.range r.count).map g ∧ ∀ i, r.slots[(r.rdPtr + i) % N]? = some (g i) := by
  choose g hg using exists_slot h
  exact ⟨g, List.filterMap_eq_map_iff_forall_eq_some.2 fun i _ => hg i, hg⟩

theorem abs_length (h : RefQueue.Inv N r) : (r.abs N).length = r.count := by
  obtain ⟨g, habs, -⟩ := exists_abs_eq_map h
  rw [habs, List.length_map, List.length_range]

/-- R17: place `i` of the queue is the slot `i` places after `rd_ptr`. -/
theorem slot_of_abs {i : Nat} {m : Message} (h : RefQueue.Inv N r) (hm : (r.abs N)[i]? = some m) :
    r.slots[(r.rdPtr + i) % N]? = some m := by
  obtain ⟨g, habs, hg⟩ := exists_abs_eq_map h
  obtain ⟨hi, hgi⟩ := List.getElem?_eq_some_iff.1 hm
  simp only [habs, List.getElem_map, List.getElem_range] at hgi
  rw [hg i, hgi]

/-- R96, INV4: the write goes to the slot behind the last place, so every place before it keeps its Message. -/
theorem abs_refPush_free (m : Message) (h : RefQueue.Inv N r) (hfree : r.count ≠ N) :
    (r.push N m).2.abs N = r.abs N ++ [m] := by
  have hlt : r.count < N := Nat.lt_of_le_of_ne h.count_le hfree
  have hnew : (r.slots.set ((r.rdPtr + r.count) % N) m)[(r.rdPtr + r.count) % N]? = some m :=
    List.getElem?_set_self (by rw [← h.inv4, h.slots_length]; exact h.wrPtr_lt)
  rw [refPush_free m hfree, abs_eq_readSlots, h.inv4, readSlots_succ_last hnew, readSlots_set m hlt,
    ← abs_eq_readSlots]

theorem abs_refPush (m : Message) (h : RefQueue.Inv N r) :
    (r.push N m).2.abs N = if (r.abs N).length < N then r.abs N ++ [m] else r.abs N := by
  rw [abs_length h]
  obtain hfull | hfree := Nat.eq_or_lt_of_le h.count_le
  · rw [if_neg hfull.not_lt, refPush_full m hfull]
  · rw [if_pos hfree, abs_refPush_free m h hfree.ne]

theorem abs_of_count_eq_zero (h : r.count = 0) : r.abs N = [] := by
  rw [abs_eq_readSlots, h]
  rfl

/-- R96: the slot at `rd_ptr` is the head, and the places after it are those that the moved pointer counts from. -/
theorem refPop_abs_cons (h : RefQueue.Inv N r) (hpos : r.count ≠ 0) :
    ∃ m, (r.pop N).1 = some m ∧ r.abs N = m :: (r.pop N).2.abs N := by
  obtain ⟨m, hm⟩ := exists_slot h 0
  rw [Nat.add_zero] at hm
  obtain ⟨n, hn⟩ := Nat.exists_eq_succ_of_ne_zero hpos
  rw [refPop_occupied hpos]
  refine ⟨m, by rwa [Nat.mod_eq_of_lt h.rdPtr_lt] at hm, ?_⟩
  rw [abs_eq_readSlots, abs_eq_readSlots, hn, Nat.succ_eq_add_one, readSlots_succ_head hm, Nat.add_sub_cancel]

theorem refPop_head_tail (h : RefQueue.Inv N r) :
    (r.pop N).1 = (r.abs N).head? ∧ (r.pop N).2.abs N = (r.abs N).tail := by
  by_cases hempty : r.count = 0
  · rw [refPop_empty hempty, abs_of_count_eq_zero hempty]
    exact ⟨rfl, rfl⟩
  · obtain ⟨m, hm, habs⟩ := refPop_abs_cons h hempty
    rw [habs]
    exact ⟨hm, rfl⟩

section

variable {s : State} (h : RefQueue.Represents r s)
include h

/-- R17: `count` is the length of the queue stood for. -/
theorem represents_count : s.queue.length = r.count := by
  rw [← h.abs_eq, abs_length h.inv]

theorem represents_wrPtr : s.wrPtr = r.wrPtr := by
  rw [State.wrPtr, represents_count h, ← h.rdPtr_eq, h.inv.inv4]

/-- R17: an occupied slot of the state is a slot of the storage, with the same Message. -/
theorem represents_slot {k : Nat} {m : Message} (hm : s.slot k = some m) : r.slots[k]? = some m := by
  by_cases hk : k < s.cfg.N
  · rw [slot_eq_getElem? hk, ← h.abs_eq, ← h.rdPtr_eq] at hm
    have hslot := slot_of_abs h.inv hm
    rwa [add_queueIndex_mod h.inv.rdPtr_lt hk] at hslot
  · rw [slot_of_not_lt hk] at hm
    cases hm

theorem represents_qpush (m : Message) :
    ∃ t : State, exec (.qpush m) s = .next t ∧ t.report = .pushed (r.push s.cfg.N m).1 ∧
      RefQueue.Represents (r.push s.cfg.N m).2 t := by
  have hinv := refPush_inv m h.inv
  have hcount := represents_count h
  by_cases hfull : r.count = s.cfg.N
  · rw [refPush_full m hfull]
    exact ⟨_, exec_qpush_full m (hcount.trans hfull), rfl, h.inv, h.abs_eq, h.rdPtr_eq⟩
  · have habs := abs_refPush_free m h.inv hfull
    rw [h.abs_eq] at habs
    rw [refPush_free m hfull] at hinv habs ⊢
    exact ⟨_, exec_qpush_free m (hcount ▸ hfull), rfl, hinv, habs, h.rdPtr_eq⟩

theorem represents_pop :
    ∃ t : State, exec .pop s = .next t ∧ t.report = .popped (r.pop s.cfg.N).1 ∧
      RefQueue.Represents (r.pop s.cfg.N).2 t := by
  have hinv := refPop_inv h.inv
  by_cases hempty : r.count = 0
  · have hq : s.queue = [] := List.eq_nil_of_length_eq_zero ((represents_count h).trans hempty)
    rw [refPop_empty hempty]
    exact ⟨_, exec_pop_empty hq, rfl, h.inv, h.abs_eq, h.rdPtr_eq⟩
  · obtain ⟨m, hm, habs⟩ := refPop_abs_cons h.inv hempty
    have hrd : (r.pop s.cfg.N).2.rdPtr = nextPtr s.cfg s.rdPtr := by
      rw [refPop_occupied hempty, nextPtr, h.rdPtr_eq]
    rw [hm]
    exact ⟨_, exec_pop_cons (h.abs_eq.symm.trans habs), rfl, hinv, rfl, hrd⟩

theorem represents_clear : RefQueue.Represents r.clear (s.qclear.emit .nothing) :=
  ⟨refClear_inv h.inv, abs_of_count_eq_zero rfl, rfl⟩

end

end

/-- Settles O38: the laws of the implementation by itself need R17's invariants alone, and with the state's queue in the
place of the abstraction function they are what the block's operations do. -/
theorem pointerQueueRefinesQueue : Obligations.PointerQueueRefinesQueue := by
  refine ⟨fun s r _ h => ?_, fun N r m h => ?_⟩
  · exact ⟨represents_count h, represents_wrPtr h, fun _ _ => represents_slot h, represents_qpush h, represents_pop h,
      _, rfl, represents_clear h⟩
  · obtain ⟨hhead, htail⟩ := refPop_head_tail h
    exact ⟨abs_length h, abs_refPush m h, hhead, htail, abs_of_count_eq_zero rfl, refPush_inv m h, refPop_inv h,
      refClear_inv h⟩

end Sys2Proof
end

section
/-! What the dispatcher does with one Message (R115 to R122), command by command. -/

namespace Sys2Proof

open Sys2Proof.Machine

variable {c : Config} {ec : EnvConfig} {m : Message} {e : Env}

theorem interpret_syn (h : inboundCommand m.code = .syn) :
    interpret c ec m e = (e.transmit (ackFrame c), false) := by
  simp [interpret, h]

theorem interpret_ack_first (h : inboundCommand m.code = .ack) (hs : e.synackComplete = false) :
    interpret c ec m e = ({ e with synackComplete := true }.transmit (uiRefreshFrame c), ec.firstAckChanges) := by
  simp [interpret, h, hs]

theorem interpret_ack_later (h : inboundCommand m.code = .ack) (hs : e.synackComplete = true) :
    interpret c ec m e = (e, false) := by
  simp [interpret, h, hs]

/-- N15: an inbound NAK is answered as an unrecognised code or not at all. -/
theorem interpret_nak (h : inboundCommand m.code = .nak) :
    interpret c ec m e = (if ec.nakIsUnrecognised then e.transmit (nakFrame c) else e, false) := by
  cases hn : ec.nakIsUnrecognised <;> simp [interpret, h, hn]

theorem interpret_field {f : UiField} (h : inboundCommand m.code = .field f) :
    interpret c ec m e = ((e.transmit (ackFrame c)).setField f (copyField (ec.cap f) m.args), true) := by
  simp [interpret, h]

theorem interpret_friendReserved (h : inboundCommand m.code = .friendReserved) :
    interpret c ec m e = (e.transmit (ackFrame c), false) := by
  simp [interpret, h]

theorem interpret_mode (h : inboundCommand m.code = .mode) :
    interpret c ec m e = ((e.transmit (ackFrame c)).setMode (modeOfArgs ec m.args), true) := by
  simp [interpret, h]

theorem interpret_unrecognised (h : inboundCommand m.code = .unrecognised) :
    interpret c ec m e = (e.transmit (nakFrame c), false) := by
  simp [interpret, h]

theorem inboundCommand_eq_ack_iff (code : Byte) : inboundCommand code = .ack ↔ code = 0x06#8 := by
  constructor
  · simp only [inboundCommand, ite_eq_iff, reduceCtorEq, and_false, false_or, and_true, or_false]
    exact And.right
  · rintro rfl
    rfl

/-- R126: a code outside the table's twelve. -/
theorem inboundCommand_of_not_mem {code : Byte} (h : code ∉
    [0x16#8, 0x06#8, 0x15#8, 0x04#8, 0x05#8, 0x0D#8, 0x07#8, 0x08#8, 0x09#8, 0x0A#8, 0x0B#8, 0x0C#8]) :
    inboundCommand code = .unrecognised := by
  simp only [List.mem_cons, List.not_mem_nil, or_false, not_or] at h
  simp [inboundCommand, h]

/-- R126: the codes of the seven fields. -/
theorem inboundCommand_of_mem {code : Byte} {f : UiField} (h : (code, f) ∈
    [(0x04#8, UiField.face), (0x05#8, .hostname), (0x0D#8, .channel), (0x07#8, .apStat), (0x08#8, .uptime),
      (0x0B#8, .handshakes), (0x0C#8, .status)]) :
    inboundCommand code = .field f := by
  simp only [List.mem_cons, List.not_mem_nil, or_false, Prod.mk.injEq] at h
  rcases h with ⟨rfl, rfl⟩ | ⟨rfl, rfl⟩ | ⟨rfl, rfl⟩ | ⟨rfl, rfl⟩ | ⟨rfl, rfl⟩ | ⟨rfl, rfl⟩ | ⟨rfl, rfl⟩ <;> rfl

theorem modeOf_auto : modeOf 0x05#8 = .auto := rfl

theorem modeOf_ai : modeOf 0x06#8 = .ai := rfl

/-- R119: "any other value" makes the same mode as 0x04. -/
theorem modeOf_manual {a : Byte} (hauto : a ≠ 0x05#8) (hai : a ≠ 0x06#8) : modeOf a = .manual := by
  simp [modeOf, hauto, hai]

theorem uiState_get_set_same (u : UiState) (f : UiField) (v : List Byte) : (u.set f v).get f = v := by
  cases f <;> rfl

theorem uiState_get_set_of_ne (u : UiState) {f g : UiField} (h : g ≠ f) (v : List Byte) :
    (u.set f v).get g = u.get g := by
  cases f <;> cases g <;> simp [UiState.get, UiState.set] at h ⊢

theorem copyField_prefix (cap : Nat) (args : List Byte) : copyField cap args <+: args :=
  (List.takeWhile_prefix _).trans (List.take_prefix cap args)

theorem copyField_length_le (cap : Nat) (args : List Byte) : (copyField cap args).length ≤ cap :=
  (List.takeWhile_prefix _).length_le.trans (List.length_take_le cap args)

theorem zero_not_mem_copyField (cap : Nat) (args : List Byte) : 0#8 ∉ copyField cap args := fun h => by
  simpa using List.mem_takeWhile_imp h

theorem copyField_succ_cons {b : Byte} (hb : b ≠ 0#8) (cap : Nat) (args : List Byte) :
    copyField (cap + 1) (b :: args) = b :: copyField cap args := by
  simp [copyField, hb]

/-- R118: short of the capacity and of the argument bytes the copy ends at a zero byte. -/
theorem getElem?_copyField_length {cap : Nat} {args : List Byte} (hcap : (copyField cap args).length < cap)
    (hargs : (copyField cap args).length < args.length) : args[(copyField cap args).length]? = some 0#8 := by
  induction args generalizing cap with
  | nil => exact absurd hargs (Nat.not_lt_zero _)
  | cons b args ih =>
    cases cap with
    | zero => exact absurd hcap (Nat.not_lt_zero _)
    | succ cap =>
      by_cases hb : b = 0#8
      · subst hb
        rfl
      · rw [copyField_succ_cons hb, List.length_cons] at hcap hargs ⊢
        exact ih (Nat.lt_of_succ_lt_succ hcap) (Nat.lt_of_succ_lt_succ hargs)

/-- R118, R119: the acknowledgement goes out before the write. -/
theorem log_append_ack_append (e : Env) (a : EnvAction) :
    (e.transmit (ackFrame c)).log ++ [a] = e.log ++ [.transmit (ackFrame c), a] :=
  List.append_assoc _ _ _

/-- Settles O50: each of the codes names its command, and the replies are frames of one code byte. -/
theorem dispatcherControlCodes : Obligations.DispatcherControlCodes := by
  intro c ec e args
  refine ⟨interpret_syn rfl, fun hs => ?_, fun hs => interpret_ack_later rfl hs, interpret_friendReserved rfl,
    fun code hcode => interpret_unrecognised (inboundCommand_of_not_mem hcode)⟩
  rw [interpret_ack_first rfl hs]
  rfl

/-- Settles O51: the mode is that of `args[0]`, and the open one without it. -/
theorem dispatcherModeMapping : Obligations.DispatcherModeMapping := by
  refine ⟨fun c ec e a rest => ⟨modeOf a, ?_, fun h => h ▸ modeOf_auto, fun h => h ▸ modeOf_ai, modeOf_manual⟩,
    fun c ec e => ?_⟩
  · rw [interpret_mode rfl, Env.setMode, log_append_ack_append]
    rfl
  · rw [interpret_mode rfl, Env.setMode, log_append_ack_append]
    rfl

/-- Settles O52: the field holds `copyField` of the arguments, which ends where R118 says. -/
theorem dispatcherFieldCopy : Obligations.DispatcherFieldCopy := by
  intro c ec e code f args hcode
  refine ⟨copyField (ec.cap f) args, ?_, uiState_get_set_same e.ui f _, fun g hg => uiState_get_set_of_ne e.ui hg _,
    copyField_prefix _ args, copyField_length_le _ args, zero_not_mem_copyField _ args, getElem?_copyField_length⟩
  rw [interpret_field (inboundCommand_of_mem hcode), Env.setField, log_append_ack_append]
  rfl

end Sys2Proof
end

section
/-! The handshake (R125): what the Messages of a session make of `synack_complete` and of what was sent. -/

namespace Sys2Proof

open Sys2Proof.Machine Sys2Proof.Laws

theorem transmissions_append (l l' : List EnvAction) :
    transmissions (l ++ l') = transmissions l ++ transmissions l' := by
  induction l with
  | nil => rfl
  | cons a l ih => cases a <;> simp [transmissions, ih]

@[simp] theorem transmit_sent (e : Env) (bytes : List Byte) : (e.transmit bytes).sent = e.sent ++ [bytes] :=
  transmissions_append e.log _

@[simp] theorem setField_sent (e : Env) (f : UiField) (v : List Byte) : (e.setField f v).sent = e.sent :=
  (transmissions_append e.log _).trans (List.append_nil _)

@[simp] theorem setMode_sent (e : Env) (md : Mode) : (e.setMode md).sent = e.sent :=
  (transmissions_append e.log _).trans (List.append_nil _)

@[simp] theorem transmit_synackComplete (e : Env) (bytes : List Byte) :
    (e.transmit bytes).synackComplete = e.synackComplete := rfl

@[simp] theorem setField_synackComplete (e : Env) (f : UiField) (v : List Byte) :
    (e.setField f v).synackComplete = e.synackComplete := rfl

@[simp] theorem setMode_synackComplete (e : Env) (md : Mode) : (e.setMode md).synackComplete = e.synackComplete := rfl

theorem encodeFrame_nil_inj {c : Config} {a b : Byte} : encodeFrame c a [] = encodeFrame c b [] ↔ a = b := by
  simp [encodeFrame]

/-- What the dispatcher sends on a code that is no ACK, and that the handshake stays as it was. -/
theorem interpret_of_not_ack {c : Config} (ec : EnvConfig) {m : Message} (e : Env) (h : m.code ≠ 0x06#8) :
    (interpret c ec m e).1.synackComplete = e.synackComplete ∧
      ∃ replies : List (List Byte), (interpret c ec m e).1.sent = e.sent ++ replies ∧
        ∀ r ∈ replies, r = ackFrame c ∨ r = nakFrame c := by
  cases hcmd : inboundCommand m.code with
  | syn => rw [interpret_syn hcmd]; exact ⟨rfl, [ackFrame c], transmit_sent _ _, by simp⟩
  | ack => exact absurd ((inboundCommand_eq_ack_iff m.code).1 hcmd) h
  | nak =>
    rw [interpret_nak hcmd]
    cases ec.nakIsUnrecognised with
    | true => exact ⟨rfl, [nakFrame c], transmit_sent _ _, by simp⟩
    | false => exact ⟨rfl, [], (List.append_nil _).symm, by simp⟩
  | field f => rw [interpret_field hcmd]; exact ⟨rfl, [ackFrame c], by simp, by simp⟩
  | friendReserved => rw [interpret_friendReserved hcmd]; exact ⟨rfl, [ackFrame c], transmit_sent _ _, by simp⟩
  | mode => rw [interpret_mode hcmd]; exact ⟨rfl, [ackFrame c], by simp, by simp⟩
  | unrecognised => rw [interpret_unrecognised hcmd]; exact ⟨rfl, [nakFrame c], transmit_sent _ _, by simp⟩

/-- What one Message does to the handshake: the first ACK completes it and sends UI-refresh; anything else leaves it and
sends at most an ACK or a NAK. -/
theorem interpret_handshake_cases (c : Config) (ec : EnvConfig) (m : Message) (e : Env) :
    (m.code = 0x06#8 ∧ e.synackComplete = false ∧ (interpret c ec m e).1.synackComplete = true ∧
      (interpret c ec m e).1.sent = e.sent ++ [uiRefreshFrame c]) ∨
    ((m.code = 0x06#8 → e.synackComplete = true) ∧
      (interpret c ec m e).1.synackComplete = e.synackComplete ∧
      ∃ replies : List (List Byte), (interpret c ec m e).1.sent = e.sent ++ replies ∧
        ∀ r ∈ replies, r = ackFrame c ∨ r = nakFrame c) := by
  by_cases hack : m.code = 0x06#8
  · have hcmd := (inboundCommand_eq_ack_iff m.code).2 hack
    cases hs : e.synackComplete with
    | false =>
      rw [interpret_ack_first hcmd hs]
      exact .inl ⟨hack, rfl, rfl, transmit_sent _ _⟩
    | true =>
      rw [interpret_ack_later hcmd hs]
      exact .inr ⟨fun _ => rfl, hs, [], (List.append_nil _).symm, by simp⟩
  · exact .inr ⟨fun h => absurd h hack, interpret_of_not_ack ec e hack⟩

/-- What a session keeps of its bootstrap (R125): one SYN sent, and the UI-refresh exactly with the handshake. -/
structure Bootstrapped (c : Config) (e : Env) : Prop where
  syn_count : e.sent.count (synFrame c) = 1
  refresh_count : e.sent.count (uiRefreshFrame c) = if e.synackComplete = true then 1 else 0

theorem sessionStart_bootstrapped (c : Config) (ui : UiState) : Bootstrapped c (sessionStart c ui) := by
  have hne : synFrame c ≠ uiRefreshFrame c := encodeFrame_nil_inj.not.2 (by decide)
  exact ⟨List.count_singleton_self, List.count_singleton.trans (if_neg (by simpa using hne))⟩

theorem interpret_bootstrapped {c : Config} (ec : EnvConfig) (m : Message) {e : Env} (h : Bootstrapped c e) :
    Bootstrapped c (interpret c ec m e).1 := by
  obtain ⟨hsyn, hrefresh⟩ := h
  obtain ⟨-, hfirst, hcomplete, hsent⟩ | ⟨-, hsame, replies, hsent, hreplies⟩ := interpret_handshake_cases c ec m e
  · have hne : synFrame c ≠ uiRefreshFrame c := encodeFrame_nil_inj.not.2 (by decide)
    rw [hfirst] at hrefresh
    constructor
    · rw [hsent, List.count_append, hsyn, List.count_eq_zero.2 (by simpa using hne)]
    · rw [hsent, List.count_append, hrefresh, hcomplete, List.count_singleton_self]
      rfl
  · have hnot : ∀ code : Byte, code ≠ 0x06#8 → code ≠ 0x15#8 → replies.count (encodeFrame c code []) = 0 := by
      refine fun code hack hnak => List.count_eq_zero.2 fun hmem => ?_
      exact (hreplies _ hmem).elim (fun h => hack (encodeFrame_nil_inj.1 h)) fun h => hnak (encodeFrame_nil_inj.1 h)
    constructor
    · rw [hsent, List.count_append, hsyn, synFrame, hnot _ (by decide) (by decide)]
    · rw [hsent, List.count_append, hrefresh, hsame, uiRefreshFrame, hnot _ (by decide) (by decide), Nat.add_zero]

theorem interpret_synackComplete_iff (c : Config) (ec : EnvConfig) (m : Message) (e : Env) :
    (interpret c ec m e).1.synackComplete = true ↔ e.synackComplete = true ∨ m.code = 0x06#8 := by
  obtain ⟨hack, -, hcomplete, -⟩ | ⟨hlater, hsame, -⟩ := interpret_handshake_cases c ec m e
  · simp [hack, hcomplete]
  · rw [hsame, or_iff_left_of_imp hlater]

theorem interpretAll_bootstrapped {c : Config} (ec : EnvConfig) (ms : List Message) {e : Env} (h : Bootstrapped c e) :
    Bootstrapped c (interpretAll c ec ms e) := by
  induction ms generalizing e with
  | nil => exact h
  | cons m ms ih => exact ih (interpret_bootstrapped ec m h)

theorem interpretAll_synackComplete_iff (c : Config) (ec : EnvConfig) (ms : List Message) (e : Env) :
    (interpretAll c ec ms e).synackComplete = true ↔ e.synackComplete = true ∨ ∃ m ∈ ms, m.code = 0x06#8 := by
  induction ms generalizing e with
  | nil => simp [interpretAll]
  | cons m ms ih => rw [interpretAll, ih, interpret_synackComplete_iff, or_assoc, List.exists_mem_cons_iff]

/-- Settles O53: a session starts bootstrapped, every Message keeps it so, and an ACK alone completes the handshake. -/
theorem handshakeBootstrap : Obligations.HandshakeBootstrap := by
  intro c ec ui ms
  have hiff := (interpretAll_synackComplete_iff c ec ms (sessionStart c ui)).trans
    (or_iff_right (by simp [sessionStart]))
  obtain ⟨hsyn, hrefresh⟩ := interpretAll_bootstrapped ec ms (sessionStart_bootstrapped c ui)
  exact ⟨hsyn, by rw [← if_congr hiff rfl rfl]; exact hrefresh, hiff⟩

end Sys2Proof
end

section
/-! The uninterrupted drain (R113, R114): one `POP` for each queued Message and one that returns `None`. -/

namespace Sys2Proof

open Sys2Proof.Machine Sys2Proof.Laws

theorem drain_empty (ec : EnvConfig) (fuel : Nat) {s : State} (e : Env) (h : s.queue = []) :
    drain ec (fuel + 1) s e = .next (s.emit (.popped none), e) := by
  simp [drain, exec_pop_empty h, andThen, Report.poppedMessage]

theorem drain_cons (ec : EnvConfig) (fuel : Nat) {s : State} (e : Env) {m : Message} {rest : List Message}
    (h : s.queue = m :: rest) :
    drain ec (fuel + 1) s e =
      drain ec fuel (({ s with queue := rest, rdPtr := nextPtr s.cfg s.rdPtr } : State).emit (.popped (some m)))
        (interpret s.cfg ec m e).1 := by
  simp [drain, exec_pop_cons h, andThen, Report.poppedMessage]

theorem drain_queue (ec : EnvConfig) {q : List Message} {s : State} (e : Env) (hq : s.queue = q) :
    ∃ t : State, drain ec (q.length + 1) s e = .next (t, interpretAll s.cfg ec q e) ∧
      t.queue = [] ∧ t.inProgress = s.inProgress ∧ t.partialBuffer = s.partialBuffer := by
  induction q generalizing s e with
  | nil => exact ⟨_, drain_empty ec 0 e hq, hq, rfl, rfl⟩
  | cons m rest ih =>
    rw [List.length_cons, drain_cons ec _ e hq]
    exact ih _ rfl

/-- Settles O54: the queue's shape decides what one `process_one` does, and the drain is an induction over it. -/
theorem dispatcherDrainsInOrder : Obligations.DispatcherDrainsInOrder := fun ec _ e =>
  ⟨fun hq => ⟨_, exec_pop_empty hq, processOne_empty ec e hq⟩,
    fun _ _ hq => ⟨_, exec_pop_cons hq, processOne_cons ec e hq⟩, drain_queue ec e rfl⟩

end Sys2Proof
end

section
/-! The dispatcher's schedule beside the decoder's (R112, R113): what each turn does to the block, to the dispatcher's
environment and to its wake flag. -/

namespace Sys2Proof

open Sys2Proof.Machine Sys2Proof.Laws

variable (ec : EnvConfig) (x : Session)

/-- An operation without the signal leaves the dispatcher awake or waiting as it was. -/
theorem withBlock_silent {t : State} (h : t.report = .nothing) : x.withBlock t = { x with block := t } := by
  simp [Session.withBlock, h, Report.msgAvail, Report.event]

theorem sessionStep_clear :
    sessionStep ec .clear x = .next { x with block := x.block.qclear.emit .nothing } :=
  congrArg Host.Outcome.next (withBlock_silent x rfl)

theorem sessionStep_reset :
    sessionStep ec .reset x = .next { x with block := x.block.resetBlock.emit .nothing } :=
  congrArg Host.Outcome.next (withBlock_silent x rfl)

/-- N19: a session start that resets the block. -/
theorem sessionStep_start_reset {ec : EnvConfig} (h : ec.sessionResetsBlock = true) (ui : UiState) :
    sessionStep ec (.start ui) x =
      .next { x with block := x.block.resetBlock.emit .nothing, env := x.env.startSession x.block.cfg ui } :=
  (if_pos h).trans (congrArg Host.Outcome.next (withBlock_silent _ rfl))

/-- N19: a session start that leaves the block. -/
theorem sessionStep_start_keep {ec : EnvConfig} (h : ec.sessionResetsBlock = false) (ui : UiState) :
    sessionStep ec (.start ui) x =
      .next { x with block := x.block.idle, env := x.env.startSession x.block.cfg ui } :=
  (if_neg (by simp [h])).trans (congrArg Host.Outcome.next (withBlock_silent _ rfl))

/-- Settles O56: a turn of the dispatcher depends on whether it is awake and on whether a Message is queued. -/
theorem signalWakesDispatcher : Obligations.SignalWakesDispatcher := by
  refine fun ec x => ⟨fun b => ⟨_, sessionStep_byte ec b x, exec_decodeByte _ _, rfl, ?_⟩,
    fun h => (sessionStep_waiting ec h).trans (congrArg _ (withBlock_silent x rfl)), fun h => ?_⟩
  · simp [Report.msgAvail]
  · cases hq : x.block.queue with
    | nil => exact ⟨_, sessionStep_empty ec h hq, exec_pop_empty hq, fun _ => ⟨rfl, rfl⟩, by simp⟩
    | cons m rest =>
      refine ⟨_, sessionStep_cons ec h hq, exec_pop_cons hq, by simp, fun m' rest' hq' => ?_⟩
      cases hq'
      exact ⟨rfl, rfl⟩

/-- Settles O57: neither a session start nor the operation it may run gives the signal. -/
theorem sessionStartSendsSyn : Obligations.SessionStartSendsSyn := by
  refine fun ec x => ⟨fun ui => ?_, ⟨_, rfl, sessionStep_clear ec x⟩, ⟨_, rfl, sessionStep_reset ec x⟩⟩
  cases h : ec.sessionResetsBlock with
  | true => exact ⟨_, sessionStep_start_reset x h ui, fun _ => rfl, by simp⟩
  | false => exact ⟨_, sessionStep_start_keep x h ui, by simp, fun _ => rfl⟩

/-- R40: the byte that fills an empty queue wakes the dispatcher. -/
theorem withBlock_rx_noneStranded {x : Session} (b : Byte) (h : NoneStranded x) :
    NoneStranded (x.withBlock (rx b x.block)) := by
  have hsignal := rx_msgAvail_iff_accepted b x.block
  have hqueue := rx_queue b x.block
  cases hacc : (rx b x.block).report.accepted with
  | none =>
    rw [hacc, Option.toList_none, List.append_nil] at hqueue
    exact h.imp (fun ha => by simp [ha]) hqueue.trans
  | some m => exact .inl (by simp [hsignal, hacc])

/-- A turn of the dispatcher leaves it awake if it took a Message; else its queue is empty or as it was. -/
theorem sessionStep_noneStranded {turn : SessionTurn} {x y : Session} (h : NoneStranded x)
    (hstep : sessionStep ec turn x = .next y) : NoneStranded y := by
  cases turn with
  | byte b =>
    cases (sessionStep_byte ec b x).symm.trans hstep
    exact withBlock_rx_noneStranded b h
  | dispatcher =>
    cases ha : x.awake with
    | false =>
      cases (sessionStep_waiting ec ha).symm.trans hstep
      exact h.imp (fun h => by simp [h]) id
    | true =>
      cases hq : x.block.queue with
      | nil =>
        cases (sessionStep_empty ec ha hq).symm.trans hstep
        exact .inr hq
      | cons m rest =>
        cases (sessionStep_cons ec ha hq).symm.trans hstep
        exact .inl rfl
  | clear =>
    cases (sessionStep_clear ec x).symm.trans hstep
    exact .inr rfl
  | reset =>
    cases (sessionStep_reset ec x).symm.trans hstep
    exact .inr rfl
  | start ui =>
    cases hr : ec.sessionResetsBlock with
    | true =>
      cases (sessionStep_start_reset x hr ui).symm.trans hstep
      exact .inr rfl
    | false =>
      cases (sessionStep_start_keep x hr ui).symm.trans hstep
      exact h

theorem runSession_cons {ec : EnvConfig} {turn : SessionTurn} {x y : Session} (h : sessionStep ec turn x = .next y)
    (turns : List SessionTurn) : runSession ec (turn :: turns) x = runSession ec turns y := by
  rw [runSession, h]
  rfl

theorem sessionAccepted_cons {ec : EnvConfig} {turn : SessionTurn} {x y : Session} (h : sessionStep ec turn x = .next y)
    (turns : List SessionTurn) :
    sessionAccepted ec (turn :: turns) x = y.block.report.accepted.toList ++ sessionAccepted ec turns y := by
  rw [sessionAccepted, h]

/-- R113: an awake dispatcher that nothing interrupts empties the queue and waits again. -/
theorem runSession_dispatcher {x : Session} {q : List Message} (ha : x.awake = true) (hq : x.block.queue = q) :
    ∃ y : Session, runSession ec (List.replicate (q.length + 1) .dispatcher) x = .next y ∧
      y.awake = false ∧ y.block.queue = [] ∧ y.env = interpretAll x.block.cfg ec q x.env := by
  induction q generalizing x with
  | nil => exact ⟨_, runSession_cons (sessionStep_empty ec ha hq) [], rfl, hq, rfl⟩
  | cons m rest ih =>
    rw [List.length_cons, List.replicate_succ, runSession_cons (sessionStep_cons ec ha hq)]
    exact ih rfl rfl

/-- Settles O58: every turn keeps the invariant, and the dispatcher's own turns drain the queue. -/
theorem noMessageIsStranded : Obligations.NoMessageIsStranded :=
  ⟨fun ec _ _ _ h hstep => sessionStep_noneStranded ec h hstep, fun ec _ ha => runSession_dispatcher ec ha rfl⟩

theorem interpretAll_append (c : Config) (ms ms' : List Message) (e : Env) :
    interpretAll c ec (ms ++ ms') e = interpretAll c ec ms' (interpretAll c ec ms e) := by
  induction ms generalizing e with
  | nil => rfl
  | cons m ms ih => exact ih _

/-- One turn of either schedule: what it accepts goes to the end of the queue, what it interprets comes off the
front. -/
theorem sessionStep_schedule {turn : SessionTurn} (h : turn.isSchedule = true) :
    ∃ (y : Session) (done : List Message), sessionStep ec turn x = .next y ∧ y.block.cfg = x.block.cfg ∧
      x.block.queue ++ y.block.report.accepted.toList = done ++ y.block.queue ∧
      y.env = interpretAll x.block.cfg ec done x.env := by
  cases turn with
  | byte b => exact ⟨_, [], sessionStep_byte ec b x, rx_cfg b x.block, (rx_queue b x.block).symm, rfl⟩
  | dispatcher =>
    cases ha : x.awake with
    | false => exact ⟨_, [], sessionStep_waiting ec ha, rfl, List.append_nil _, rfl⟩
    | true =>
      cases hq : x.block.queue with
      | nil => exact ⟨_, [], sessionStep_empty ec ha hq, rfl, hq.symm, rfl⟩
      | cons m rest => exact ⟨_, [m], sessionStep_cons ec ha hq, rfl, List.append_nil _, rfl⟩
  | clear => cases h
  | reset => cases h
  | start ui => cases h

/-- Settles O59: what the first turn interprets comes before what the others do. -/
theorem dispatcherInterpretsInArrivalOrder : Obligations.DispatcherInterpretsInArrivalOrder := by
  intro ec turns x hturns
  induction turns generalizing x with
  | nil => exact ⟨x, [], rfl, List.append_nil _, rfl⟩
  | cons turn turns ih =>
    obtain ⟨hturn, hturns⟩ := List.forall_mem_cons.1 hturns
    obtain ⟨y, done, hstep, hcfg, hqueue, henv⟩ := sessionStep_schedule ec x hturn
    obtain ⟨z, done', hrun, hqueue', henv'⟩ := ih y hturns
    refine ⟨z, done ++ done', (runSession_cons hstep turns).trans hrun, ?_, ?_⟩
    · rw [sessionAccepted_cons hstep, ← List.append_assoc, hqueue, List.append_assoc, hqueue', List.append_assoc]
    · rw [henv', henv, hcfg, interpretAll_append]

end Sys2Proof
end

section
/-! Each agent keeps to its own part of the state (R148): no operation writes what is pending, the consumer leaves the
Decoder State, and the producer leaves the queued Messages and `rd_ptr`. -/

namespace Sys2Proof

open Sys2Proof.Machine Sys2Proof.Laws

/-- R18, R36: an operation leaves what the agents have yet to do, since it answers the same state with that put back. -/
theorem exec_pendingOf {i : Instr} {s t : State} (h : exec i s = .next t) : pendingOf t = pendingOf s := by
  have hput := exec_withPending i s (pendingOf s)
  rw [withPending_pendingOf, h] at hput
  obtain ⟨u, -, rfl⟩ := outcomeWithPending_next.1 hput.symm
  rfl

/-- The consumer's operations are those of R85 and the reserved command, which answers no state. -/
theorem isConsumerOp_of_agent {i : Instr} (ha : i.agent = .consumer) (hi : i ≠ .reservedCmd3) :
    isConsumerOp i = true := by
  cases i with
  | nop | pop | clear | len | capacity => rfl
  | reservedCmd3 => exact absurd rfl hi
  | startFrame | endFrame | data | qpush | reset => cases ha

/-- R39: a byte adds to the end of the queue at most. -/
theorem queue_prefix_rx (b : Byte) (s : State) : s.queue <+: (rx b s).queue := ⟨_, (rx_queue b s).symm⟩

/-- R91: `QPUSH` adds to the end of the queue at most and leaves `rd_ptr`. -/
theorem qpush_keeps_head (m : Message) (s : State) :
    s.queue <+: (s.qpush m).2.queue ∧ (s.qpush m).2.rdPtr = s.rdPtr := by
  obtain ⟨-, e⟩ | ⟨-, e⟩ := qpush_cases s m <;> rw [e]
  · exact ⟨List.prefix_rfl, rfl⟩
  · exact ⟨List.prefix_append s.queue [m], rfl⟩

/-- R148: of the operations that answer a state the producer's are the bytes and `QPUSH`. -/
theorem exec_producer_keeps_head {i : Instr} {s t : State} (ha : i.agent = .producer) (h : exec i s = .next t) :
    s.queue <+: t.queue ∧ t.rdPtr = s.rdPtr := by
  obtain ⟨b, -, rfl⟩ | ⟨r, hr, -⟩ | ⟨rfl, -⟩ | ⟨m, -, rfl⟩ | ⟨rfl, -⟩ | ⟨rfl, -⟩ := exec_next_cases h
  · exact ⟨queue_prefix_rx b s, rx_rdPtr b s⟩
  · obtain ⟨rfl, -⟩ | ⟨rfl, -⟩ | ⟨rfl, -⟩ := hr <;> cases ha
  · cases ha
  · exact qpush_keeps_head m s
  · cases ha
  · cases ha

/-- R148: an operation of the consumer leaves the Decoder State. -/
theorem exec_consumer_sameDecoder {i : Instr} {s t : State} (ha : i.agent = .consumer) (h : exec i s = .next t) :
    SameDecoder s t := by
  have hi : i ≠ .reservedCmd3 := by rintro rfl; cases h
  obtain ⟨u, hu, hd⟩ := exec_consumerOp (isConsumerOp_of_agent ha hi) s
  cases hu.symm.trans h
  exact hd

/-- Settles O44: the constants and what is pending are kept by every operation, the rest agent by agent. -/
theorem agentsKeepToTheirState : Obligations.AgentsKeepToTheirState := by
  intro i s t h
  obtain ⟨hrx, hcmd, hrst, hturns⟩ := Pending.mk.inj (exec_pendingOf h)
  refine ⟨⟨exec_cfg h, hrx, hcmd, hrst, hturns⟩, fun ha => ?_, fun ha => exec_producer_keeps_head ha h⟩
  obtain ⟨-, hi, hpb⟩ := exec_consumer_sameDecoder ha h
  exact ⟨hi, hpb⟩

end Sys2Proof
end

section
/-! `RESET` by itself (R160) and as a clock cycle (R162), and a frame that stays open over a `CLEAR` (R170). -/

namespace Sys2Proof

open Sys2Proof.Machine Sys2Proof.Laws

/-- Settles O13: `RESET` writes the same values into every state, so once more it changes nothing; a word that decodes to
it is the word it is encoded as. -/
theorem resetOperation : Obligations.ResetOperation := by
  refine fun s => ⟨rfl, rfl, fun w => ⟨fun h => ?_, fun h => h ▸ rfl⟩⟩
  obtain ⟨-, hw⟩ := encode_decode h
  exact (Option.some.inj hw).symm

/-- R162: with `rst` at 1 neither the order nor another input counts. -/
theorem cycle_rst {i : PortsIn} (h : i.rst = true) (order : SameCycleOrder) (s : State) :
    cycle order i s = .next (s.resetBlock.idle, portsOut s .nothing .nothing) :=
  if_pos h

/-- Settles O48: the outputs of the cycle are made of no report. -/
theorem resetOverridesCycle : Obligations.ResetOverridesCycle :=
  fun order _ s h => ⟨_, cycle_rst h order s, rfl, rfl, rfl⟩

/-- R94: `CLEAR` completes, and what follows it finds the queue empty and everything else but the report as it was. -/
theorem execAll_clear_cons (is : List Instr) (s : State) :
    execAll (.clear :: is) s = execAll is (s.qclear.emit .nothing) := rfl

/-- R76: payload bytes that fit into the partial buffer of an open frame are all kept, and beside them at most the last
report changes. -/
theorem execAll_payload_free {s : State} {more : List Byte} (hi : s.inProgress = true)
    (hfit : s.partialLength + more.length ≤ s.cfg.P) (hmore : ∀ b ∈ more, Payload s.cfg b) (is : List Instr) :
    ∃ r, execAll (more.map Instr.data ++ is) s =
      execAll is (withDecoder s true (s.partialBuffer ++ more) r) := by
  induction more generalizing s with
  | nil => exact ⟨s.report, by rw [List.append_nil, ← hi]; rfl⟩
  | cons b more ih =>
    obtain ⟨hb, hmore⟩ := List.forall_mem_cons.1 hmore
    rw [List.length_cons] at hfit
    have hexec : exec (.data b) s = .next ((s.appendByte b).emit (.received .evAppend none)) :=
      congrArg _ (rx_payload_free hb hi (by omega))
    have hlen : ((s.appendByte b).emit (.received .evAppend none)).partialLength = s.partialLength + 1 :=
      List.length_append
    obtain ⟨r, hr⟩ := ih (s := (s.appendByte b).emit (.received .evAppend none)) hi
      (by rw [hlen, emit_cfg, appendByte_cfg]; omega) hmore
    refine ⟨r, ?_⟩
    rw [List.map_cons, List.cons_append, execAll, hexec, ← List.singleton_append, ← List.append_assoc]
    exact hr

/-- Settles O43: the END finds the whole frame in the partial buffer and, after the `CLEAR`, a free slot. -/
theorem openFrameSurvivesClear : Obligations.OpenFrameSurvivesClear := by
  intro s more hc hi hmore hfit
  have ⟨hne, _⟩ := hc
  obtain ⟨r, hr⟩ := execAll_payload_free (s := s.qclear.emit .nothing) hi hfit hmore [.endFrame]
  obtain ⟨hend, -⟩ := endAcceptsFrame (withDecoder (s.qclear.emit .nothing) true (s.partialBuffer ++ more) r) hne rfl
    (one_le_N_of_legal hc)
  have hrun := hr.trans (execAll_cons_next.2 ⟨_, hend, rfl⟩)
  rw [← execAll_clear_cons] at hrun
  exact ⟨_, hrun, rfl, rfl, rfl⟩

end Sys2Proof
end
